-- ==== Sys2Proof/Word.lean ====
section
/-! DEFINITION. The word types of the engine (00_scope.md R6, R8): every number is unsigned. -/

namespace Sys2Proof

/-- A 32-bit word, bit 31 the most significant (R8). -/
abbrev Word := BitVec 32

/-- A byte, bit 7 the most significant (R8). -/
abbrev Byte := BitVec 8

/-- A command word `CW` on `cmd_i` (R70). -/
abbrev CmdWord := BitVec 12

/-- The sequencer register packed as in R77: `SEQ[9:6]` is `STAGE`, `SEQ[5:0]` is `T`. -/
abbrev SeqWord := BitVec 10

end Sys2Proof
end

