-- ==== Sys2Proof/Syntax.lean ====
section
/-! DEFINITION. The engine's eleven instructions (00_scope.md R7): three host commands and eight
micro-operations, one constructor for each row of spec/opcode_table.json. -/

namespace Sys2Proof

/-- The instructions. A command's operand is `CW[7:0]` (R72); a micro-operation's only operand is
`T`, the step index in `SEQ` (R77). -/
inductive Instr where
  /-- NEW (R91). -/
  | new
  /-- FEED, with the message byte (R92). -/
  | feed (b : Byte)
  /-- FINALIZE (R93). -/
  | finalize
  /-- PADMARK (R115). -/
  | padmark
  /-- PADFILL (R116). -/
  | padfill
  /-- PADLEN (R117). -/
  | padlen
  /-- LOADW, with the word index 0..15 (R134); its encoding has four operand bits (R77). -/
  | loadw (t : BitVec 4)
  /-- SCHED, with the word index, legal from 16 to 63 (R135). -/
  | sched (t : BitVec 6)
  /-- INIT (R155). -/
  | init
  /-- ROUND, with the round index 0..63 (R156). -/
  | round (t : BitVec 6)
  /-- ACCUM (R171). -/
  | accum
deriving DecidableEq, Repr

end Sys2Proof
end

