-- ==== Sys2Proof/WellFormed.lean ====
section
/-! DEFINITION. Which instruction terms the spec gives an encoding. -/

namespace Sys2Proof

/-- Every term is an instruction except SCHED with an index below 16: R77 gives SCHED the indices
16..63 and R78 reserves the rest. All 256 bytes are legal operands of FEED (R72), and the operand
widths of LOADW and ROUND hold exactly their legal indices. -/
def Instr.wellFormed : Instr → Bool
  | .sched t => decide (16 ≤ t.toNat)
  | .new | .feed _ | .finalize | .padmark | .padfill | .padlen => true
  | .loadw _ | .init | .round _ | .accum => true

end Sys2Proof
end

