-- ==== Sys2Proof/Decode.lean ====
section
/-! DEFINITION. The two decoders (30_encoding.md R70 to R74 for command words, R77 and R78 for the
sequencer register), total on every word and rejecting by name, and after them the encoder. -/

namespace Sys2Proof

/-! ### Stage codes (10_state.md R34) -/

@[simp] abbrev Stage.idle    : BitVec 4 := 0x0#4
@[simp] abbrev Stage.padmark : BitVec 4 := 0x1#4
@[simp] abbrev Stage.padfill : BitVec 4 := 0x2#4
@[simp] abbrev Stage.padlen  : BitVec 4 := 0x3#4
@[simp] abbrev Stage.loadw   : BitVec 4 := 0x4#4
@[simp] abbrev Stage.sched   : BitVec 4 := 0x5#4
@[simp] abbrev Stage.init    : BitVec 4 := 0x6#4
@[simp] abbrev Stage.round   : BitVec 4 := 0x7#4
@[simp] abbrev Stage.accum   : BitVec 4 := 0x8#4
@[simp] abbrev Stage.final   : BitVec 4 := 0x9#4

/-! ### Decoding -/

/-- Why a word is no instruction. -/
inductive DecodeError where
  /-- The word matches no row of R71 (R73): the command is refused with `IllegalCommand`. -/
  | illegalCommand (w : CmdWord)
  /-- `SEQ` is IDLE or FINAL with `T = 0`: it selects no micro-operation (R77). -/
  | restSeq (w : SeqWord)
  /-- `SEQ` is one of the reserved values of R78. -/
  | reservedSeq (w : SeqWord)
deriving DecidableEq, Repr

/-- What a decoder answers. -/
inductive Decoded where
  | instr (i : Instr)
  | reject (e : DecodeError)
deriving DecidableEq, Repr

/-- `OP = CW[11:8]` (R70). -/
def cmdOp (w : CmdWord) : BitVec 4 := w.extractLsb' 8 4

/-- `DATA = CW[7:0]` (R70). -/
def cmdData (w : CmdWord) : Byte := w.extractLsb' 0 8

/-- The decoder of an accepted command word (R74). It does not look at the state. -/
def decodeCommand (w : CmdWord) : Decoded :=
  if cmdOp w = 0x1#4 ∧ cmdData w = 0x00#8 then .instr .new
  else if cmdOp w = 0x2#4 then .instr (.feed (cmdData w))
  else if cmdOp w = 0x3#4 ∧ cmdData w = 0x00#8 then .instr .finalize
  else .reject (.illegalCommand w)

/-- `STAGE = SEQ[9:6]` (R77). -/
def seqStage (w : SeqWord) : BitVec 4 := w.extractLsb' 6 4

/-- `T = SEQ[5:0]` (R77). -/
def seqT (w : SeqWord) : BitVec 6 := w.extractLsb' 0 6

/-- The micro-operation that a value of `SEQ` selects (R77). Rest values select none, and the
values of R78 are reserved. -/
def decodeSeq (w : SeqWord) : Decoded :=
  if seqStage w = Stage.padmark ∧ seqT w = 0#6 then .instr .padmark
  else if seqStage w = Stage.padfill ∧ seqT w = 0#6 then .instr .padfill
  else if seqStage w = Stage.padlen ∧ seqT w = 0#6 then .instr .padlen
  else if seqStage w = Stage.loadw ∧ (seqT w).toNat < 16 then
    .instr (.loadw ((seqT w).extractLsb' 0 4))
  else if seqStage w = Stage.sched ∧ 16 ≤ (seqT w).toNat then .instr (.sched (seqT w))
  else if seqStage w = Stage.init ∧ seqT w = 0#6 then .instr .init
  else if seqStage w = Stage.round then .instr (.round (seqT w))
  else if seqStage w = Stage.accum ∧ seqT w = 0#6 then .instr .accum
  else if (seqStage w = Stage.idle ∨ seqStage w = Stage.final) ∧ seqT w = 0#6 then
    .reject (.restSeq w)
  else .reject (.reservedSeq w)

/-- A word of either format: CMD12 stands on `cmd_i`, SEQ10 in the sequencer register. -/
inductive CodeWord where
  | command (w : CmdWord)
  | seq (w : SeqWord)
deriving DecidableEq, Repr

/-- The decoder of a word of either format. -/
def decode : CodeWord → Decoded
  | .command w => decodeCommand w
  | .seq w => decodeSeq w

/-! ### Encoding -/

/-- The word of an instruction, written from the tables of R71 and R77: `OP` over `DATA` for a
command, `STAGE` over `T` for a micro-operation. -/
def encode : Instr → CodeWord
  | .new => .command (0x1#4 ++ 0x00#8)
  | .feed b => .command (0x2#4 ++ b)
  | .finalize => .command (0x3#4 ++ 0x00#8)
  | .padmark => .seq (0x1#4 ++ 0#6)
  | .padfill => .seq (0x2#4 ++ 0#6)
  | .padlen => .seq (0x3#4 ++ 0#6)
  | .loadw t => .seq (0b010000#6 ++ t)
  | .sched t => .seq (0b0101#4 ++ t)
  | .init => .seq (0x6#4 ++ 0#6)
  | .round t => .seq (0b0111#4 ++ t)
  | .accum => .seq (0x8#4 ++ 0#6)

/-! ### Words numbered as the opcode table numbers them -/

/-- The instruction that a number stands for when it is read as a 12-bit command word. -/
def commandOfNat (w : Nat) : Option Instr :=
  if w < 4096 then
    match decodeCommand (BitVec.ofNat 12 w) with
    | .instr i => some i
    | .reject _ => none
  else none

/-- The instruction that a number stands for when it is read as a 10-bit `SEQ` value. -/
def uopOfNat (w : Nat) : Option Instr :=
  if w < 1024 then
    match decodeSeq (BitVec.ofNat 10 w) with
    | .instr i => some i
    | .reject _ => none
  else none

/-- The instruction of a table word. A 12-bit word is a command and a 10-bit word a value of
`SEQ`. Given in whole bytes (16 bits) the two formats look alike; a word that is a legal command
is then read as one, and any other word as a value of `SEQ` (log entry 9). -/
def decodeTableWord (nbits w : Nat) : Option Instr :=
  if nbits = 10 then uopOfNat w
  else match commandOfNat w with
    | some i => some i
    | none => if nbits = 12 then none else uopOfNat w

end Sys2Proof
end

