-- ==== Sys2Proof/Machine/State.lean ====
section
/-! DEFINITION. The state of one engine instance (10_state.md R20), the signals on its ports
(30_encoding.md R75), the reasons a step can stop, and the state after reset (R38). -/

namespace Sys2Proof.Machine

/-- Why the machine stops. Each is the model's own name for a situation that the spec calls
unreachable; none is an exception of the spec, whose exceptions are refused commands (R185). -/
inductive Fault where
  /-- Raised by the step, and by SCHED with an index below 16, when `SEQ` holds a value that R78
  reserves: "no step from such a state (it is stuck)". Safe. -/
  | reservedSeq
  /-- Raised by FEED, PADMARK, PADFILL when `BUFLEN` is 64: `BUF` has no index 64 (R50, R51).
  Unreachable (R37). Safe. -/
  | bufIndexOutOfRange
  /-- Raised by LOADW when it reads a byte of `BUF` that nothing has written since reset: the spec
  gives no value and "a read would be a fault" (R38). Unreachable (R39). Safe. -/
  | bufUnwritten
deriving DecidableEq, Repr

/-- Why the model declines to run an instruction. -/
inductive Refusal where
  /-- Raised by `exec` for an instruction without a meaning. No arm uses it. Safe. -/
  | notModelled (mnemonic : String)
deriving DecidableEq, Repr

/-- The response codes of R76. -/
inductive Response where
  | ok
  | usageError
  | illegalCommand
  | internalInvariant
deriving DecidableEq, Repr

/-- What the host drives on the engine's inputs during one step (R75): `rst_i`, and `cmd_i` where
`cmd_valid_i` is 1 (`none` where it is 0, when the word on `cmd_i` is ignored). -/
structure PortSample where
  rst : Bool
  cmd : Option CmdWord
deriving DecidableEq, Repr

/-- The content of `BUF`: index and byte, indices strictly rising. An index that is not listed
holds no value (R38, 93_implementation_defined.md V1). -/
abbrev Memory := List Host.Cell

/-- The state: the tuple of R20 under its own names, and the two sides of the ports. -/
structure State where
  /-- State, the running hash value (R21). -/
  H : Vector Word 8
  /-- The working registers `a..h` (R22). -/
  R : Vector Word 8
  /-- The message schedule (R23). -/
  W : Vector Word 64
  /-- The block buffer (R24). -/
  BUF : Memory
  /-- The fill count, 0..64 (R25). -/
  BUFLEN : Fin 65
  /-- The byte counter, which wraps modulo 2^64 (R26). -/
  TOTAL : BitVec 64
  /-- The stage of the sequencer register (R33, R34). -/
  STAGE : BitVec 4
  /-- The step index of the sequencer register (R33). -/
  T : BitVec 6
  /-- A FINALIZE has been accepted for this message (R27). -/
  FIN : Bool
  /-- The length field has been written (R28). -/
  LAST : Bool
  /-- The response given in the step that led to this state: `resp_valid_o` and `resp_o` (R75).
  An output, not engine state: no step reads it (log entry 5). -/
  resp : Option Response
  /-- What the host drives in the steps to come, one sample a step (log entry 4). -/
  inputs : List PortSample
deriving DecidableEq, Repr

/-- The state after reset (R38, R210), with a host that drives nothing. `R` and `W` are zero by
the model's choice (log entries 1, 2); `BUF` holds no value anywhere (log entry 3). -/
def State.reset : State where
  H := config.H0
  R := Vector.replicate 8 0
  W := Vector.replicate 64 0
  BUF := []
  BUFLEN := 0
  TOTAL := 0
  STAGE := Stage.idle
  T := 0#6
  FIN := false
  LAST := false
  resp := none
  inputs := []

end Sys2Proof.Machine
end

