-- ==== Sys2Proof/Machine/Operands.lean ====
section
/-! DEFINITION. The operand forms: words and their arithmetic (00_scope.md R9 to R14), the mixing
functions (42_message_scheduler.md R130, R131; 43_compression_engine.md R151 to R154), and the reads
of the register files and tables by index. -/

namespace Sys2Proof.Machine

/-! ### Words -/

/-- `rotr(x, n)` by the formula of R10, for the amounts 1..31; the spec gives no meaning to other
amounts and no rule uses one. -/
def rotr (x : Word) (n : Nat) : Word := (x >>> n) ||| (x <<< (32 - n))

/-- `BE32` (R14): the first byte is the most significant. -/
def be32 (b0 b1 b2 b3 : Byte) : Word := b0 ++ b1 ++ b2 ++ b3

/-- The four bytes of a word, the most significant first (R172). -/
def be32Bytes (v : Word) : List Byte :=
  [v.extractLsb' 24 8, v.extractLsb' 16 8, v.extractLsb' 8 8, v.extractLsb' 0 8]

/-- `BE64bytes` (R14): the eight bytes of a 64-bit value, the most significant first. -/
def be64Bytes (v : BitVec 64) : List Byte :=
  [v.extractLsb' 56 8, v.extractLsb' 48 8, v.extractLsb' 40 8, v.extractLsb' 32 8,
   v.extractLsb' 24 8, v.extractLsb' 16 8, v.extractLsb' 8 8, v.extractLsb' 0 8]

/-! ### Mixing functions -/

/-- σ0 (R130). -/
def sigma0 (x : Word) : Word := rotr x 7 ^^^ rotr x 18 ^^^ (x >>> 3)

/-- σ1 (R131). -/
def sigma1 (x : Word) : Word := rotr x 17 ^^^ rotr x 19 ^^^ (x >>> 10)

/-- Σ0 (R151). -/
def bigSigma0 (x : Word) : Word := rotr x 2 ^^^ rotr x 13 ^^^ rotr x 22

/-- Σ1 (R152). -/
def bigSigma1 (x : Word) : Word := rotr x 6 ^^^ rotr x 11 ^^^ rotr x 25

/-- Ch (R153). -/
def ch (e f g : Word) : Word := (e &&& f) ^^^ (~~~e &&& g)

/-- Maj (R154). -/
def maj (a b c : Word) : Word := (a &&& b) ^^^ (a &&& c) ^^^ (b &&& c)

/-! ### Indexed reads -/

/-- `K[t]` (R9, R150). -/
def kAt (t : BitVec 6) : Word := config.K[t.toNat]'t.isLt

/-- `W[t]` of a schedule file (R9). -/
def wAt (w : Vector Word 64) (t : BitVec 6) : Word := w[t.toNat]'t.isLt

/-- `W[t] <- v` of a schedule file (R9). -/
def wSet (w : Vector Word 64) (t : BitVec 6) (v : Word) : Vector Word 64 :=
  w.set t.toNat v t.isLt

/-- `SEQ` packed (R77): `STAGE` over `T`. -/
def State.seq (s : State) : SeqWord := s.STAGE ++ s.T

end Sys2Proof.Machine
end

