-- ==== Sys2Proof/Machine/Ops.lean ====
section
/-! DEFINITION. The named operations on the buffer and on the state: the memory forms of 00_scope.md
R9, the sequencer register, responses and refusals (60_exceptions.md R185), the ports of one step
(30_encoding.md R75), and reset (70_reset_and_hazards.md R210). -/

namespace Sys2Proof.Machine

/-! ### The block buffer (R24, R50, R51) -/

/-- The canonical form: indices strictly rising, all of them below 64. -/
abbrev Memory.wf (m : Memory) : Prop :=
  m.Pairwise (fun c d => c.1 < d.1) ∧ ∀ c ∈ m, c.1 < 64

/-- The byte at an index, `none` where nothing has been written. -/
def Memory.read : Memory → Nat → Option Byte
  | [], _ => none
  | (a, b) :: m, j => if a = j then some b else Memory.read m j

/-- `BUF[j] <- v`, keeping the canonical form. -/
def Memory.write : Memory → Nat → Byte → Memory
  | [], j, v => [(j, v)]
  | (a, b) :: m, j, v =>
    if j < a then (j, v) :: (a, b) :: m
    else if j = a then (j, v) :: m
    else (a, b) :: Memory.write m j v

/-- Consecutive writes from an index upwards. -/
def Memory.writeAll : Memory → Nat → List Byte → Memory
  | m, _, [] => m
  | m, j, v :: vs => Memory.writeAll (Memory.write m j v) (j + 1) vs

/-- `BUF[j]` as an operand (R9): an index above 63 does not exist, and a byte nothing has written
has no value. -/
def Memory.readByte (m : Memory) (j : Nat) : Except Fault Byte :=
  if j < 64 then
    match m.read j with
    | some b => .ok b
    | none => .error .bufUnwritten
  else .error .bufIndexOutOfRange

/-- `MemRead(addr, 4)` (R9), big-endian (R52). -/
def Memory.read32 (m : Memory) (addr : Nat) : Except Fault Word := do
  let b0 ← m.readByte addr
  let b1 ← m.readByte (addr + 1)
  let b2 ← m.readByte (addr + 2)
  let b3 ← m.readByte (addr + 3)
  return be32 b0 b1 b2 b3

/-- The addressing mode of FEED, PADMARK and PADFILL (R51): `MemWrite(BUFLEN, 1, b)` and
`BUFLEN <- BUFLEN + 1` in one step. -/
def State.append (s : State) (b : Byte) : Except Fault State :=
  if h : s.BUFLEN.val < 64 then
    .ok { s with BUF := s.BUF.write s.BUFLEN.val b, BUFLEN := ⟨s.BUFLEN.val + 1, by omega⟩ }
  else .error .bufIndexOutOfRange

/-! ### Named updates -/

/-- `SEQ <- (STAGE, T)` (R9, R33). -/
def State.setSeq (s : State) (stage : BitVec 4) (t : BitVec 6) : State :=
  { s with STAGE := stage, T := t }

/-- `respond(code)` (R9, R76). -/
def State.respond (s : State) (r : Response) : State := { s with resp := some r }

/-- What NEW and reset load (R91, R210): `H0` into `H`, and an empty message. -/
def State.restart (s : State) : State :=
  { s with H := config.H0, BUFLEN := 0, TOTAL := 0, FIN := false, LAST := false,
           STAGE := Stage.idle, T := 0#6 }

/-- `TOTAL <- (TOTAL + 1) mod 2^64` (R26). -/
def State.countByte (s : State) : State := { s with TOTAL := s.TOTAL + 1 }

/-- `W[t] <- v`. -/
def State.setW (s : State) (t : BitVec 6) (v : Word) : State := { s with W := wSet s.W t v }

/-- `R <- r`, all eight at once (R22). -/
def State.setR (s : State) (r : Vector Word 8) : State := { s with R := r }

/-! ### Exceptions (R185, R186) -/

/-- The exceptions of R186. `internalInvariant` has no trigger (R190). -/
inductive Exn where
  | usageError
  | illegalCommand
  | internalInvariant
deriving DecidableEq, Repr

/-- The response code that carries an exception (R186). -/
def Exn.response : Exn → Response
  | .usageError => .usageError
  | .illegalCommand => .illegalCommand
  | .internalInvariant => .internalInvariant

/-- `raise`: taking an exception (R185, R194). The command is refused: the response carries the
code and nothing else changes; nothing is saved, no mode is switched and `SEQ` stays. -/
def State.raise (s : State) (e : Exn) : State := s.respond e.response

/-- The return from an exception (R195): there is no return instruction and nothing to restore;
the engine goes on as if the refused command had not been sent. -/
def State.resume (s : State) : State := s

/-! ### The ports of one step (R75) -/

/-- An input sample on which the host drives nothing. -/
def PortSample.quiet : PortSample := { rst := false, cmd := none }

/-- What the host drives in the coming step; a host whose samples have run out drives nothing. -/
def State.sample (s : State) : PortSample := s.inputs.headD .quiet

/-- The start of a step: the sample is used up, and `resp_valid_o` is 0 until a command is
accepted. -/
def State.tick (s : State) : State := { s with inputs := s.inputs.tail, resp := none }

/-- Reset (R210): every field at its value after reset, whatever the stage; what the host drives
next is not the engine's. -/
def State.resetEngine (s : State) : State := { State.reset with inputs := s.inputs }

end Sys2Proof.Machine
end

