-- ==== Sys2Proof/Machine/Accumulator.lean ====
section
/-! DEFINITION. The state accumulator's micro-operation ACCUM (44_state_accumulator.md R170, R171). -/

namespace Sys2Proof.Machine

/-- `Accumulate(S, r)` (R170): eight independent additions modulo 2^32. -/
def accumulate (h r : Vector Word 8) : Vector Word 8 :=
  #v[h[0] + r[0], h[1] + r[1], h[2] + r[2], h[3] + r[3],
     h[4] + r[4], h[5] + r[5], h[6] + r[6], h[7] + r[7]]

/-- ACCUM (R171): the State takes the sum, the buffer is emptied, and `LAST` and `FIN` choose the
way out of the block routine. -/
def execAccum (s : State) : Host.Outcome State Fault Refusal :=
  let s' : State := { s with H := accumulate s.H s.R, BUFLEN := 0 }
  .next (if s.LAST then s'.setSeq Stage.final 0#6
         else if s.FIN then s'.setSeq Stage.padfill 0#6
         else s'.setSeq Stage.idle 0#6)

end Sys2Proof.Machine
end

