-- ==== Sys2Proof/Machine/Compression.lean ====
section
/-! DEFINITION. The compression engine's micro-operations INIT and ROUND (43_compression_engine.md R155,
R156). -/

namespace Sys2Proof.Machine

/-- INIT (R155): the working registers are loaded from the State. -/
def execInit (s : State) : Host.Outcome State Fault Refusal :=
  .next ((s.setR s.H).setSeq Stage.round 0#6)

/-- `temp1` of a round (R156). -/
def temp1 (r : Vector Word 8) (k w : Word) : Word :=
  r[7] + bigSigma1 r[4] + ch r[4] r[5] r[6] + k + w

/-- `temp2` of a round (R156). -/
def temp2 (r : Vector Word 8) : Word := bigSigma0 r[0] + maj r[0] r[1] r[2]

/-- The eight working registers after a round, all from the values before it (R156). -/
def roundRegs (r : Vector Word 8) (k w : Word) : Vector Word 8 :=
  #v[temp1 r k w + temp2 r, r[0], r[1], r[2], r[3] + temp1 r k w, r[4], r[5], r[6]]

/-- ROUND (R156). -/
def execRound (t : BitVec 6) (s : State) : Host.Outcome State Fault Refusal :=
  let s' := s.setR (roundRegs s.R (kAt t) (wAt s.W t))
  .next (if t = 63#6 then s'.setSeq Stage.accum 0#6 else s'.setSeq Stage.round (t + 1#6))

end Sys2Proof.Machine
end

