-- ==== Sys2Proof/Machine/Flags.lean ====
section
/-! DEFINITION. The one-bit state and the outputs (10_state.md R27 to R29, R36; 30_encoding.md R75,
R76). The engine has no arithmetic flags (R29): no operation of Operands.lean writes or reads one. -/

namespace Sys2Proof.Machine

/-- `FIN <- 1` (R27). -/
def State.setFin (s : State) : State := { s with FIN := true }

/-- `LAST <- 1` (R28). -/
def State.setLast (s : State) : State := { s with LAST := true }

/-- `busy_o` (R36). -/
def State.busy (s : State) : Bool := s.STAGE != Stage.idle && s.STAGE != Stage.final

/-- `cmd_ready_o` (R36). -/
def State.cmdReady (s : State) : Bool := !s.busy

/-- `digest_valid_o` (R36). -/
def State.digestValid (s : State) : Bool := s.STAGE == Stage.final

/-- `digest_o` (R36): `H[0]` in bits 255:224. -/
def State.digestOut (s : State) : BitVec 256 :=
  s.H[0] ++ s.H[1] ++ s.H[2] ++ s.H[3] ++ s.H[4] ++ s.H[5] ++ s.H[6] ++ s.H[7]

/-- The number of a response code (R76). -/
def Response.code : Response → BitVec 2
  | .ok => 0
  | .usageError => 1
  | .illegalCommand => 2
  | .internalInvariant => 3

/-- `resp_valid_o` (R75). -/
def State.respValid (s : State) : Bool := s.resp.isSome

/-- `resp_o` (R75): `none` while `resp_valid_o` is 0, when it is meaningless. -/
def State.respOut (s : State) : Option (BitVec 2) := s.resp.map Response.code

end Sys2Proof.Machine
end

