-- ==== Sys2Proof/Machine/HostCommands.lean ====
section
/-! DEFINITION. The host commands NEW, FEED and FINALIZE (40_host_commands.md R90 to R93). A command
is accepted only at rest; in any other stage it is held: not accepted, no effect, no response (R75). -/

namespace Sys2Proof.Machine

/-- NEW (R91), accepted in IDLE and in FINAL. `R`, `W` and `BUF` are not written. -/
def execNew (s : State) : Host.Outcome State Fault Refusal :=
  if s.STAGE = Stage.idle ∨ s.STAGE = Stage.final then .next (s.restart.respond .ok)
  else .next s

/-- FEED (R92): refused in FINAL (R187); in IDLE it appends the byte, counts it, and starts the
block routine when the buffer is full. -/
def execFeed (b : Byte) (s : State) : Host.Outcome State Fault Refusal :=
  if s.STAGE = Stage.final then .next (s.raise .usageError)
  else if s.STAGE = Stage.idle then
    match s.append b with
    | .error f => .fault f
    | .ok s' =>
      .next ((s'.countByte.setSeq (if s'.BUFLEN.val = 64 then Stage.loadw else Stage.idle) 0#6).respond .ok)
  else .next s

/-- FINALIZE (R93): refused in FINAL (R188); in IDLE it sets `FIN` and starts the padder. -/
def execFinalize (s : State) : Host.Outcome State Fault Refusal :=
  if s.STAGE = Stage.final then .next (s.raise .usageError)
  else if s.STAGE = Stage.idle then .next ((s.setFin.setSeq Stage.padmark 0#6).respond .ok)
  else .next s

end Sys2Proof.Machine
end

