-- ==== Sys2Proof/Machine/Padder.lean ====
section
/-! DEFINITION. The padder's micro-operations PADMARK, PADFILL, PADLEN (41_padder_iterator.md R115 to
R118). -/

namespace Sys2Proof.Machine

/-- `nextpad(m)` (R118): where the sequencer goes when a padding step has made `BUFLEN` equal to `m`. -/
def nextPad (s : State) (m : Nat) : State :=
  if m = 64 then s.setSeq Stage.loadw 0#6
  else if m = 56 then s.setSeq Stage.padlen 0#6
  else s.setSeq Stage.padfill 0#6

/-- One padding byte, and the successor chosen on the new fill count. -/
def padByte (b : Byte) (s : State) : Host.Outcome State Fault Refusal :=
  match s.append b with
  | .error f => .fault f
  | .ok s' => .next (nextPad s' s'.BUFLEN.val)

/-- PADMARK (R115). -/
def execPadmark (s : State) : Host.Outcome State Fault Refusal := padByte 0x80#8 s

/-- PADFILL (R116). -/
def execPadfill (s : State) : Host.Outcome State Fault Refusal := padByte 0x00#8 s

/-- `L = (TOTAL * 8) mod 2^64` (R117, R120). -/
def lengthField (total : BitVec 64) : BitVec 64 := total * 8

/-- PADLEN (R117): the eight length bytes at 56..63 in one step. -/
def execPadlen (s : State) : Host.Outcome State Fault Refusal :=
  .next (({ s with BUF := s.BUF.writeAll 56 (be64Bytes (lengthField s.TOTAL)),
                   BUFLEN := ⟨64, by omega⟩ }).setLast.setSeq Stage.loadw 0#6)

end Sys2Proof.Machine
end

