-- ==== Sys2Proof/Machine/Scheduler.lean ====
section
/-! DEFINITION. The message scheduler's micro-operations LOADW and SCHED (42_message_scheduler.md R134,
R135). -/

namespace Sys2Proof.Machine

/-- LOADW (R134). -/
def execLoadw (t : BitVec 4) (s : State) : Host.Outcome State Fault Refusal :=
  match s.BUF.read32 (4 * t.toNat) with
  | .error f => .fault f
  | .ok v =>
    let s' := s.setW (t.setWidth 6) v
    .next (if t = 15#4 then s'.setSeq Stage.sched 16#6 else s'.setSeq Stage.loadw (t.setWidth 6 + 1#6))

/-- The derived schedule word `W[t]` from the words before it (R135), for `t` from 16 to 63. -/
def scheduleWord (w : Vector Word 64) (t : BitVec 6) : Word :=
  wAt w (t - 16#6) + sigma0 (wAt w (t - 15#6)) + wAt w (t - 7#6) + sigma1 (wAt w (t - 2#6))

/-- SCHED (R135). An index below 16 is no SCHED (R78): no `SEQ` value selects it. -/
def execSched (t : BitVec 6) (s : State) : Host.Outcome State Fault Refusal :=
  if t.toNat < 16 then .fault .reservedSeq
  else
    let s' := s.setW t (scheduleWord s.W t)
    .next (if t = 63#6 then s'.setSeq Stage.init 0#6 else s'.setSeq Stage.sched (t + 1#6))

end Sys2Proof.Machine
end

