-- ==== Sys2Proof/Machine/Dispatch.lean ====
section
/-! DEFINITION. One arm for each instruction. -/

namespace Sys2Proof.Machine

def exec (i : Instr) (s : State) : Host.Outcome State Fault Refusal :=
  match i with
  | .new => Sys2Proof.Machine.execNew s
  | .feed b => Sys2Proof.Machine.execFeed b s
  | .finalize => Sys2Proof.Machine.execFinalize s
  | .padmark => Sys2Proof.Machine.execPadmark s
  | .padfill => Sys2Proof.Machine.execPadfill s
  | .padlen => Sys2Proof.Machine.execPadlen s
  | .loadw t => Sys2Proof.Machine.execLoadw t s
  | .sched t => Sys2Proof.Machine.execSched t s
  | .init => Sys2Proof.Machine.execInit s
  | .round t => Sys2Proof.Machine.execRound t s
  | .accum => Sys2Proof.Machine.execAccum s

end Sys2Proof.Machine
end

