-- ==== Sys2Proof/Machine/Sequencer.lean ====
section
/-! DEFINITION. What the engine does in one step when reset is not asserted: at rest it accepts a
presented command (30_encoding.md R75, 40_host_commands.md R90), busy it runs the micro-operation that
`SEQ` selects (R77). -/

namespace Sys2Proof.Machine

/-- `SEQ` holds one of the two rest values (R77). -/
def State.atRest (s : State) : Bool :=
  s.seq == Stage.idle ++ 0#6 || s.seq == Stage.final ++ 0#6

/-- A step at rest: without a command the engine waits and keeps its state (R201); a presented word
is accepted, decoded first (R90, R193), and an illegal word is refused (R189). -/
def acceptPort (cmd : Option CmdWord) (s : State) : Host.Outcome State Fault Refusal :=
  match cmd with
  | none => .next s
  | some w =>
    match decodeCommand w with
    | .instr i => exec i s
    | .reject _ => .next (s.raise .illegalCommand).resume

/-- A busy step: the micro-operation that `SEQ` selects; a reserved `SEQ` value has no step (R78). -/
def runUop (s : State) : Host.Outcome State Fault Refusal :=
  match decodeSeq s.seq with
  | .instr i => exec i s
  | .reject _ => .fault .reservedSeq

/-- One step of the engine with a given input sample: reset wins (R193, R210), then the sequencer
decides; a word presented to a busy engine is not looked at (R75, R220). -/
def engineStep (p : PortSample) (s : State) : Host.Outcome State Fault Refusal :=
  if p.rst then .next s.resetEngine
  else if s.atRest then acceptPort p.cmd s
  else runUop s

end Sys2Proof.Machine
end

