-- ==== Sys2Proof/Machine/Step.lean ====
section
/-! DEFINITION. One step of the machine: the next input sample is used up and the engine takes one
step with it. -/

namespace Sys2Proof.Machine

/-- One step (00_scope.md R7): one command acceptance, one micro-operation, one step of waiting at
rest, or one step of reset. -/
def step (s : State) : Host.Outcome State Fault Refusal := engineStep s.sample s.tick

/-- `s` with a command word on the port of an engine at rest, where the next step accepts it. -/
def State.withCommand (s : State) (w : CmdWord) : State :=
  let port : PortSample := { rst := false, cmd := some w }
  if s.atRest then { s with inputs := port :: s.inputs }
  else { s with STAGE := Stage.idle, T := 0#6, inputs := port :: s.inputs }

/-- `s` with a value in `SEQ`, which selects the next step of an undisturbed engine. -/
def State.withSeq (s : State) (w : SeqWord) : State :=
  { s with STAGE := seqStage w, T := seqT w, inputs := PortSample.quiet :: s.inputs }

/-- `s` with a table word placed where the engine takes its next instruction: a command word on
the command port, as the host puts it there, and a micro-operation in `SEQ` (log entry 9). A number
that is no instruction goes to the same place if it fits there. -/
def State.withFetchWord (s : State) (nbits w : Nat) : State :=
  match decodeTableWord nbits w with
  | some (.new) | some (.feed _) | some (.finalize) => s.withCommand (BitVec.ofNat 12 w)
  | some (.padmark) | some (.padfill) | some (.padlen) | some (.loadw _) | some (.sched _)
  | some (.init) | some (.round _) | some (.accum) => s.withSeq (BitVec.ofNat 10 w)
  | none =>
    if nbits = 10 ∧ w < 1024 then s.withSeq (BitVec.ofNat 10 w)
    else if nbits ≠ 10 ∧ w < 4096 then s.withCommand (BitVec.ofNat 12 w)
    else s

end Sys2Proof.Machine
end

