-- ==== Sys2Proof/Machine/HashFunction.lean ====
section
/-! DEFINITION. The function the engine computes, as the pure functions of the spec: the padder
(41_padder_iterator.md R110 to R112), the schedule (R133), the compression (R157), the accumulation
(R170), the digest (R172, R173) and `Hash` (R97). No step calls `hashMessage`; it is what the steps add up to. -/

namespace Sys2Proof.Machine

/-- A block of 64 bytes, index 0 the first (R6, R8). -/
abbrev Block := Vector Byte 64

/-- The number of zero bytes of the padding, `z = (55 - n) mod 64` (R111). -/
def padZeros (n : Nat) : Nat := (119 - n % 64) % 64

/-- `Pad(M)` (R110). -/
def pad (m : List Byte) : List Byte :=
  m ++ [0x80#8] ++ List.replicate (padZeros m.length) 0x00#8 ++
    be64Bytes (BitVec.ofNat 64 (m.length * 8))

/-- The block `P[64j .. 64j + 63]` of a byte sequence. -/
def blockAt (p : List Byte) (j : Nat) : Block := Vector.ofFn fun i => p.getD (64 * j + i.val) 0

/-- `Blocks(P)` (R112). -/
def blocks (p : List Byte) : List Block := (List.range (p.length / 64)).map (blockAt p)

/-- Word `t` of a block, big-endian (R52, R133). -/
def blockWord (b : Block) (t : BitVec 4) : Word :=
  have := t.isLt
  be32 (b[4 * t.toNat]'(by omega)) (b[4 * t.toNat + 1]'(by omega))
    (b[4 * t.toNat + 2]'(by omega)) (b[4 * t.toNat + 3]'(by omega))

/-- The schedule with its first `n` words in place, built in rising order of `t` (R133). -/
def scheduleUpTo (b : Block) : Nat → Vector Word 64
  | 0 => Vector.replicate 64 0
  | n + 1 =>
    let w := scheduleUpTo b n
    wSet w (BitVec.ofNat 6 n)
      (if n < 16 then blockWord b (BitVec.ofNat 4 n) else scheduleWord w (BitVec.ofNat 6 n))

/-- `Schedule(B)` (R133). -/
def schedule (b : Block) : Vector Word 64 := scheduleUpTo b 64

/-- The working registers after the first `n` rounds on State `h` and schedule `w` (R157). -/
def compressUpTo (h : Vector Word 8) (w : Vector Word 64) : Nat → Vector Word 8
  | 0 => h
  | n + 1 =>
    roundRegs (compressUpTo h w n) (kAt (BitVec.ofNat 6 n)) (wAt w (BitVec.ofNat 6 n))

/-- `Compress(S, w)` (R157). -/
def compress (h : Vector Word 8) (w : Vector Word 64) : Vector Word 8 := compressUpTo h w 64

/-- `CompressBlock(S, B)` (R170). -/
def compressBlock (h : Vector Word 8) (b : Block) : Vector Word 8 :=
  accumulate h (compress h (schedule b))

/-- `Digest(S)` (R172). -/
def digest (h : Vector Word 8) : List Byte := h.toList.flatMap be32Bytes

/-- `Hash(M)` (R97). -/
def hashMessage (m : List Byte) : List Byte := digest ((blocks (pad m)).foldl compressBlock config.H0)

/-- One lowercase hexadecimal digit (R173). -/
def hexDigit (d : BitVec 4) : Char := "0123456789abcdef".toList.getD d.toNat '0'

/-- The hexadecimal rendering of a digest (R173): byte 0 first, high nibble first. -/
def hexDigest (bs : List Byte) : List Char :=
  bs.flatMap fun b => [hexDigit (b.extractLsb' 4 4), hexDigit (b.extractLsb' 0 4)]

end Sys2Proof.Machine
end

