-- ==== Sys2Proof/Machine/Program.lean ====
section
/-! DEFINITION. Runs of several steps, and the host's side of the port: the command sequences of
30_encoding.md R79, R80 and a host that waits until its commands are accepted (R75, R220). -/

namespace Sys2Proof.Machine

/-- The next state of an outcome handed on, a stop kept as it is. -/
def andThen (o : Host.Outcome State Fault Refusal)
    (f : State → Host.Outcome State Fault Refusal) : Host.Outcome State Fault Refusal :=
  match o with
  | .next s => f s
  | .fault r => .fault r
  | .refused r => .refused r

/-- `n` steps, stopping at the first that answers no next state. -/
def run : Nat → State → Host.Outcome State Fault Refusal
  | 0, s => .next s
  | n + 1, s => andThen (step s) (run n)

/-- `WAIT` (R80): steps until `cmd_ready_o` is 1, at most `n` of them. -/
def wait : Nat → State → Host.Outcome State Fault Refusal
  | 0, s => .next s
  | n + 1, s => if s.cmdReady then .next s else andThen (step s) (wait n)

/-- The most micro-operations a command starts (R227). -/
def maxBusy : Nat := 325

/-- The host presents one word for one step, drives nothing after it, and waits (R80). -/
def send (w : CmdWord) (s : State) : Host.Outcome State Fault Refusal :=
  andThen (step { s with inputs := [{ rst := false, cmd := some w }] }) (wait maxBusy)

/-- A program: its words sent one after another. -/
def sendAll : List CmdWord → State → Host.Outcome State Fault Refusal
  | [], s => .next s
  | w :: ws, s => andThen (send w s) (sendAll ws)

/-- A host that drives nothing for `n` steps. -/
def pause (n : Nat) (s : State) : Host.Outcome State Fault Refusal := run n { s with inputs := [] }

/-- The word of `NEW` (R79). -/
def newWord : CmdWord := 0x100#12

/-- The word of `FEED b` (R79). -/
def feedWord (b : Byte) : CmdWord := 0x2#4 ++ b

/-- The word of `FINALIZE` (R79). -/
def finalizeWord : CmdWord := 0x300#12

/-- The pseudo-instruction `FEEDS` (R80). -/
def feeds (m : List Byte) : List CmdWord := m.map feedWord

/-- The pseudo-instruction `HASH` (R80). -/
def hashProgram (m : List Byte) : List CmdWord := newWord :: feeds m ++ [finalizeWord]

/-- Chunks of a message fed one after another, with a pause of so many steps before each (R98). -/
def sendChunks : List (Nat × List Byte) → State → Host.Outcome State Fault Refusal
  | [], s => .next s
  | (n, c) :: cs, s => andThen (andThen (pause n s) (sendAll (feeds c))) (sendChunks cs)

end Sys2Proof.Machine
end

