-- ==== Sys2Proof/Safety.lean ====
section
/-! DEFINITION. The terms in which claims about whole runs are made: the invariants of 10_state.md R37,
the message an engine holds between commands, the content that a later step can still read
(R39, 40_host_commands.md R96), and what the host observes (R96). -/

namespace Sys2Proof.Machine

/-! ### The invariants of R37 -/

/-- `STAGE` and `T` within the table of R34 (items 1 and 2). -/
abbrev State.SeqLegal (s : State) : Prop :=
  (s.STAGE = Stage.loadw ∧ s.T.toNat < 16) ∨ (s.STAGE = Stage.sched ∧ 16 ≤ s.T.toNat) ∨
  s.STAGE = Stage.round ∨
  (s.T = 0#6 ∧ (s.STAGE = Stage.idle ∨ s.STAGE = Stage.padmark ∨ s.STAGE = Stage.padfill ∨
    s.STAGE = Stage.padlen ∨ s.STAGE = Stage.init ∨ s.STAGE = Stage.accum ∨ s.STAGE = Stage.final))

/-- The sequencer is in the block routine (R119). -/
abbrev State.InBlock (s : State) : Prop :=
  s.STAGE = Stage.loadw ∨ s.STAGE = Stage.sched ∨ s.STAGE = Stage.init ∨ s.STAGE = Stage.round ∨
  s.STAGE = Stage.accum

/-- The fill count by stage (item 3; for PADFILL also the precondition of R116). -/
abbrev State.FillLegal (s : State) : Prop :=
  (s.STAGE = Stage.idle ∨ s.STAGE = Stage.padmark → s.BUFLEN.val ≤ 63) ∧
  (s.STAGE = Stage.padfill → s.BUFLEN.val ≤ 63 ∧ s.BUFLEN.val ≠ 56) ∧
  (s.STAGE = Stage.padlen → s.BUFLEN.val = 56) ∧
  (s.InBlock → s.BUFLEN.val = 64) ∧
  (s.STAGE = Stage.final → s.BUFLEN.val = 0)

/-- The two flags by stage (item 4; for the padding stages also the preconditions of R116, R117). -/
abbrev State.FlagsLegal (s : State) : Prop :=
  (s.STAGE = Stage.idle → s.FIN = false ∧ s.LAST = false) ∧
  (s.STAGE = Stage.padmark ∨ s.STAGE = Stage.padfill ∨ s.STAGE = Stage.padlen →
    s.FIN = true ∧ s.LAST = false) ∧
  (s.STAGE = Stage.final → s.FIN = true ∧ s.LAST = true) ∧
  (s.LAST = true → s.FIN = true)

/-- Until FINALIZE the fill count is the byte count modulo 64 (item 5, first clause; a full buffer
counts as 0). -/
abbrev State.CountLegal (s : State) : Prop :=
  s.FIN = false → s.BUFLEN.val % 64 = s.TOTAL.toNat % 64

/-- Every byte below the fill count has been written (item 6). -/
abbrev State.Filled (s : State) : Prop :=
  ∀ j < s.BUFLEN.val, (s.BUF.read j).isSome = true

/-- The invariant of the engine: R37 as far as one state shows it, and the canonical form of `BUF`. -/
abbrev State.Inv (s : State) : Prop :=
  s.SeqLegal ∧ s.FillLegal ∧ s.FlagsLegal ∧ s.CountLegal ∧ s.BUF.wf ∧ s.Filled

/-! ### Messages and blocks -/

/-- `BUF` holds the block `b`. -/
def State.HoldsBlock (s : State) (b : Block) : Prop := ∀ j : Fin 64, s.BUF.read j.val = some b[j]

/-- The engine is in IDLE and the bytes fed since the last reset or NEW are `m` (R37 item 5): the
whole blocks of `m` are compressed into `H`, the rest stands in `BUF`, and all are counted. -/
def State.HoldsMessage (s : State) (m : List Byte) : Prop :=
  s.STAGE = Stage.idle ∧ s.T = 0#6 ∧ s.FIN = false ∧ s.LAST = false ∧
  s.BUFLEN.val = m.length % 64 ∧ s.TOTAL = BitVec.ofNat 64 m.length ∧
  s.H = (blocks (m.take (64 * (m.length / 64)))).foldl compressBlock config.H0 ∧
  ∀ j < m.length % 64, s.BUF.read j = m[64 * (m.length / 64) + j]?

/-! ### Runs -/

/-- The host does not assert reset in the next `n` steps. -/
def State.NoReset (s : State) (n : Nat) : Prop := ∀ p ∈ s.inputs.take n, p.rst = false

/-- The run of `n` steps from `s` reaches a next state with the property `P`. -/
def Reaches (s : State) (n : Nat) (P : State → Prop) : Prop := ∃ t, run n s = .next t ∧ P t

/-! ### Observation (R96) -/

/-- What the host sees after a step: the response, `busy_o`, `cmd_ready_o`, `digest_valid_o`,
`digest_o`. -/
structure Observation where
  resp : Option (BitVec 2)
  busy : Bool
  cmdReady : Bool
  digestValid : Bool
  digest : BitVec 256
deriving DecidableEq, Repr

/-- The observation of a state. -/
def State.observe (s : State) : Observation :=
  { resp := s.respOut, busy := s.busy, cmdReady := s.cmdReady, digestValid := s.digestValid,
    digest := s.digestOut }

/-- Two engines agree on everything a later step can still read (R96): all but the dead content of
`BUF` at and above the fill count, of `W` and `R` outside their live stages, and of the top bits of
`TOTAL` (R26). -/
def State.LiveEq (s t : State) : Prop :=
  s.H = t.H ∧ s.BUFLEN = t.BUFLEN ∧ s.TOTAL.toNat % 2 ^ 61 = t.TOTAL.toNat % 2 ^ 61 ∧
  s.STAGE = t.STAGE ∧ s.T = t.T ∧ s.FIN = t.FIN ∧ s.LAST = t.LAST ∧
  s.resp = t.resp ∧ s.inputs = t.inputs ∧
  (∀ j < s.BUFLEN.val, s.BUF.read j = t.BUF.read j) ∧
  (s.STAGE = Stage.loadw ∨ s.STAGE = Stage.sched →
    ∀ j : BitVec 6, j < s.T → wAt s.W j = wAt t.W j) ∧
  (s.STAGE = Stage.init → s.W = t.W) ∧
  (s.STAGE = Stage.round → s.R = t.R ∧ ∀ j : BitVec 6, s.T ≤ j → wAt s.W j = wAt t.W j) ∧
  (s.STAGE = Stage.accum → s.R = t.R)

end Sys2Proof.Machine
end

