-- ==== Sys2Proof/Certificates/Slice0/Obligations.lean ====
section
/-! DEFINITION. The statements about the engine, each from the numbered rules of spec/ that its
docstring names. -/

open Sys2Proof Sys2Proof.Machine

/-! ### Encodings -/

/-- A few words written out from R71 and R77, and what they stand for. -/
def Obligations.SpecWordsDecode : Prop :=
  decodeCommand 0b000100000000#12 = .instr .new ∧
  decodeCommand 0b001001100001#12 = .instr (.feed 0x61) ∧
  decodeCommand 0b001100000000#12 = .instr .finalize ∧
  decodeSeq 0b0001000000#10 = .instr .padmark ∧
  decodeSeq 0b0100001111#10 = .instr (.loadw 15) ∧
  decodeSeq 0b0101010000#10 = .instr (.sched 16) ∧
  decodeSeq 0b0111111111#10 = .instr (.round 63) ∧
  decodeSeq 0b1000000000#10 = .instr .accum

/-- Decoding and encoding agree in both directions, for every instruction and every word. -/
def Obligations.DecodeAndEncodeAgree : Prop :=
  (∀ i : Instr, i.wellFormed = true → decode (encode i) = .instr i) ∧
  (∀ (w : CodeWord) (i : Instr), decode w = .instr i → i.wellFormed = true ∧ encode i = w)

/-- R71: a word is the command of the row whose mask and match it meets; 1 word is NEW, 256 are
FEED, 1 is FINALIZE and 3838 are refused. -/
def Obligations.CommandRowsByMaskAndMatch : Prop :=
  (∀ w : CmdWord,
    (decodeCommand w = .instr .new ↔ w &&& 0xFFF = 0x100) ∧
    (∀ b, decodeCommand w = .instr (.feed b) ↔ w &&& 0xF00 = 0x200 ∧ b = w.setWidth 8) ∧
    (decodeCommand w = .instr .finalize ↔ w &&& 0xFFF = 0x300) ∧
    (decodeCommand w = .reject (.illegalCommand w) ↔
      w &&& 0xFFF ≠ 0x100 ∧ w &&& 0xF00 ≠ 0x200 ∧ w &&& 0xFFF ≠ 0x300)) ∧
  (Finset.univ.filter fun w : CmdWord => decodeCommand w = .instr .new).card = 1 ∧
  (Finset.univ.filter fun w : CmdWord => ∃ b, decodeCommand w = .instr (.feed b)).card = 256 ∧
  (Finset.univ.filter fun w : CmdWord => decodeCommand w = .instr .finalize).card = 1 ∧
  (Finset.univ.filter fun w : CmdWord => decodeCommand w = .reject (.illegalCommand w)).card = 3838

/-- R77: a value of `SEQ` selects the micro-operation of the row whose mask and match it meets,
SCHED only with `T` from 16 on; 0x000 and 0x240 select none. -/
def Obligations.SeqRowsByMaskAndMatch : Prop :=
  ∀ w : SeqWord,
    (decodeSeq w = .instr .padmark ↔ w &&& 0x3FF = 0x040) ∧
    (decodeSeq w = .instr .padfill ↔ w &&& 0x3FF = 0x080) ∧
    (decodeSeq w = .instr .padlen ↔ w &&& 0x3FF = 0x0C0) ∧
    (∀ t, decodeSeq w = .instr (.loadw t) ↔ w &&& 0x3F0 = 0x100 ∧ t = w.setWidth 4) ∧
    (∀ t, decodeSeq w = .instr (.sched t) ↔
      w &&& 0x3C0 = 0x140 ∧ 16 ≤ t.toNat ∧ t = w.setWidth 6) ∧
    (decodeSeq w = .instr .init ↔ w &&& 0x3FF = 0x180) ∧
    (∀ t, decodeSeq w = .instr (.round t) ↔ w &&& 0x3C0 = 0x1C0 ∧ t = w.setWidth 6) ∧
    (decodeSeq w = .instr .accum ↔ w &&& 0x3FF = 0x200) ∧
    (decodeSeq w = .reject (.restSeq w) ↔ w = 0x000 ∨ w = 0x240)

/-- R78: from a reserved value of `SEQ` there is no step but reset; the model stops there by name,
and so does SCHED with an index below 16. The stop is the model's form of the spec's "stuck". -/
def Obligations.ReservedSeqHasNoStep : Prop :=
  (∀ s : State, s.sample.rst = false →
    (0xA ≤ s.STAGE.toNat ∨
      (s.T ≠ 0#6 ∧ (s.STAGE = Stage.idle ∨ s.STAGE = Stage.padmark ∨ s.STAGE = Stage.padfill ∨
        s.STAGE = Stage.padlen ∨ s.STAGE = Stage.init ∨ s.STAGE = Stage.accum ∨
        s.STAGE = Stage.final)) ∨
      (s.STAGE = Stage.loadw ∧ 16 ≤ s.T.toNat) ∨
      (s.STAGE = Stage.sched ∧ s.T.toNat < 16)) →
    step s = .fault .reservedSeq) ∧
  (∀ (s : State) (t : BitVec 6), t.toNat < 16 → exec (.sched t) s = .fault .reservedSeq)

/-! ### The host commands -/

/-- R91: NEW, in IDLE and in FINAL, loads `H0`, empties the message, clears the flags, goes to IDLE
and answers OK; `R`, `W` and `BUF` keep their content, and NEW with a `DATA` other than 0 is illegal. -/
def Obligations.NewStartsEmptyMessage : Prop :=
  decodeCommand 0x100 = .instr .new ∧
  (∀ d : Byte, d ≠ 0 → decodeCommand (0x1#4 ++ d) = .reject (.illegalCommand (0x1#4 ++ d))) ∧
  ∀ s : State, s.STAGE = Stage.idle ∨ s.STAGE = Stage.final →
    ∃ t, exec .new s = .next t ∧
      (∀ k : Fin 8, t.H[k] = config.H0[k]) ∧ t.BUFLEN.val = 0 ∧ t.TOTAL = 0 ∧
      t.FIN = false ∧ t.LAST = false ∧ t.STAGE = Stage.idle ∧ t.T = 0#6 ∧ t.resp = some .ok ∧
      t.busy = false ∧ t.digestValid = false ∧
      t.digestOut = config.H0[0] ++ config.H0[1] ++ config.H0[2] ++ config.H0[3] ++
        config.H0[4] ++ config.H0[5] ++ config.H0[6] ++ config.H0[7] ∧
      t.R = s.R ∧ t.W = s.W ∧ t.BUF = s.BUF ∧ t.inputs = s.inputs

/-- R92: FEED in IDLE writes its byte at `BUFLEN` and nowhere else, counts it in `BUFLEN` and, modulo
2^64, in `TOTAL`, starts the block routine exactly when the buffer is full, and answers OK; in FINAL
it is refused. Everything not named is unchanged. -/
def Obligations.FeedAppendsByte : Prop :=
  ∀ (b : Byte) (s : State),
    decodeCommand (0x200 + b.setWidth 12) = .instr (.feed b) ∧
    (s.STAGE = Stage.idle → s.BUFLEN.val < 64 →
      ∃ t, exec (.feed b) s = .next t ∧
        t.BUF.read s.BUFLEN.val = some b ∧
        (∀ a, a ≠ s.BUFLEN.val → t.BUF.read a = s.BUF.read a) ∧
        t.BUFLEN.val = s.BUFLEN.val + 1 ∧
        t.TOTAL.toNat = (s.TOTAL.toNat + 1) % 2 ^ 64 ∧
        (s.BUFLEN.val + 1 = 64 → t.STAGE = Stage.loadw ∧ t.T = 0#6) ∧
        (s.BUFLEN.val + 1 ≠ 64 → t.STAGE = Stage.idle ∧ t.T = 0#6) ∧
        t.resp = some .ok ∧
        t.H = s.H ∧ t.R = s.R ∧ t.W = s.W ∧ t.FIN = s.FIN ∧ t.LAST = s.LAST ∧
        t.inputs = s.inputs) ∧
    (s.STAGE = Stage.final → exec (.feed b) s = .next { s with resp := some .usageError })

/-- R93: FINALIZE in IDLE sets `FIN`, starts the padder and answers OK; in FINAL it is refused;
FINALIZE with a `DATA` other than 0 is illegal. Everything not named is unchanged. -/
def Obligations.FinalizeStartsPadding : Prop :=
  decodeCommand 0x300 = .instr .finalize ∧
  (∀ d : Byte, d ≠ 0 → decodeCommand (0x3#4 ++ d) = .reject (.illegalCommand (0x3#4 ++ d))) ∧
  ∀ s : State,
    (s.STAGE = Stage.idle →
      exec .finalize s = .next
        { s with FIN := true, STAGE := Stage.padmark, T := 0#6, resp := some .ok }) ∧
    (s.STAGE = Stage.final → exec .finalize s = .next { s with resp := some .usageError })

/-- R75, R220: a command that meets a busy engine is held; it has no effect and no response. -/
def Obligations.BusyEngineHoldsCommand : Prop :=
  ∀ (s : State) (i : Instr), s.busy = true →
    (i = .new ∨ i = .finalize ∨ ∃ b, i = .feed b) → exec i s = .next s

/-- R51: `BUF` has no index 64, so an instruction that would append to a full buffer stops. The
stop is the model's name for a step the spec calls unreachable (V6). -/
def Obligations.FullBufferStopsAppend : Prop :=
  ∀ s : State, s.BUFLEN.val = 64 →
    exec .padmark s = .fault .bufIndexOutOfRange ∧
    exec .padfill s = .fault .bufIndexOutOfRange ∧
    ∀ b, s.STAGE = Stage.idle → exec (.feed b) s = .fault .bufIndexOutOfRange

/-! ### The padder -/

/-- R115, R116, R118: PADMARK writes 0x80 and PADFILL 0x00 at `BUFLEN` and nowhere else, count the
byte in `BUFLEN` and not in `TOTAL`, and go on by the new fill count: 64 to the block routine, 56 to
PADLEN, any other to PADFILL. Everything not named is unchanged. -/
def Obligations.PaddingBytesAppended : Prop :=
  decodeSeq (Stage.padmark ++ 0#6) = .instr .padmark ∧
  decodeSeq (Stage.padfill ++ 0#6) = .instr .padfill ∧
  ∀ (i : Instr) (b : Byte), (i = .padmark ∧ b = 0x80) ∨ (i = .padfill ∧ b = 0x00) →
    ∀ s : State, s.BUFLEN.val < 64 →
      ∃ t, exec i s = .next t ∧
        t.BUF.read s.BUFLEN.val = some b ∧
        (∀ a, a ≠ s.BUFLEN.val → t.BUF.read a = s.BUF.read a) ∧
        t.BUFLEN.val = s.BUFLEN.val + 1 ∧
        t.STAGE = (if s.BUFLEN.val + 1 = 64 then Stage.loadw
          else if s.BUFLEN.val + 1 = 56 then Stage.padlen else Stage.padfill) ∧
        t.T = 0#6 ∧
        t.TOTAL = s.TOTAL ∧ t.H = s.H ∧ t.R = s.R ∧ t.W = s.W ∧ t.FIN = s.FIN ∧
        t.LAST = s.LAST ∧ t.resp = s.resp ∧ t.inputs = s.inputs

/-- R117: PADLEN writes `(TOTAL * 8) mod 2^64` big-endian at 56..63 and nowhere else, fills the
buffer, sets `LAST` and starts the block routine. Everything not named is unchanged. -/
def Obligations.PadlenWritesBitLength : Prop :=
  decodeSeq (Stage.padlen ++ 0#6) = .instr .padlen ∧
  ∀ s : State, ∃ t, exec .padlen s = .next t ∧
    (∀ j < 8, t.BUF.read (56 + j) =
      some (BitVec.ofNat 8 ((s.TOTAL.toNat * 8 % 2 ^ 64) / 2 ^ (56 - 8 * j)))) ∧
    (∀ a, a < 56 ∨ 63 < a → t.BUF.read a = s.BUF.read a) ∧
    t.BUFLEN.val = 64 ∧ t.LAST = true ∧ t.STAGE = Stage.loadw ∧ t.T = 0#6 ∧
    t.TOTAL = s.TOTAL ∧ t.H = s.H ∧ t.R = s.R ∧ t.W = s.W ∧ t.FIN = s.FIN ∧
    t.resp = s.resp ∧ t.inputs = s.inputs

/-! ### The message scheduler -/

/-- R134: LOADW puts the four bytes of `BUF` at `4T` into `W[T]`, the first the most significant, and
goes to the next index, after the last one to SCHED 16. Everything not named is unchanged. -/
def Obligations.LoadwLoadsBigEndianWord : Prop :=
  ∀ (t : BitVec 4) (s : State) (b0 b1 b2 b3 : Byte),
    decodeSeq (Stage.loadw ++ t.setWidth 6) = .instr (.loadw t) ∧
    (s.BUF.read (4 * t.toNat) = some b0 → s.BUF.read (4 * t.toNat + 1) = some b1 →
      s.BUF.read (4 * t.toNat + 2) = some b2 → s.BUF.read (4 * t.toNat + 3) = some b3 →
      ∃ w : Word,
        w.toNat = b0.toNat * 2 ^ 24 + b1.toNat * 2 ^ 16 + b2.toNat * 2 ^ 8 + b3.toNat ∧
        exec (.loadw t) s = .next
          { s with W := s.W.set t.toNat w (by omega)
                   STAGE := if t.toNat = 15 then Stage.sched else Stage.loadw
                   T := BitVec.ofNat 6 (t.toNat + 1) })

/-- R38, R39: a byte of `BUF` that nothing has written has no value, and LOADW stops on reading one. -/
def Obligations.LoadwStopsOnUnwrittenByte : Prop :=
  ∀ (t : BitVec 4) (s : State),
    (∃ i < 4, s.BUF.read (4 * t.toNat + i) = none) → exec (.loadw t) s = .fault .bufUnwritten

/-- R135: SCHED with index `k + 16` sets `W[k+16]` to
`(W[k] + σ0(W[k+1]) + W[k+9] + σ1(W[k+14])) mod 2^32` and goes to the next index, after 63 to INIT.
Everything not named is unchanged. -/
def Obligations.SchedComputesWord : Prop :=
  ∀ (k : Nat) (hk : k < 48) (s : State),
    decodeSeq (Stage.sched ++ BitVec.ofNat 6 (k + 16)) = .instr (.sched (BitVec.ofNat 6 (k + 16))) ∧
    ∃ w : Word,
      w.toNat = (s.W[k].toNat + (sigma0 s.W[k + 1]).toNat + s.W[k + 9].toNat +
        (sigma1 s.W[k + 14]).toNat) % 2 ^ 32 ∧
      exec (.sched (BitVec.ofNat 6 (k + 16))) s = .next
        { s with W := s.W.set (k + 16) w
                 STAGE := if k + 16 = 63 then Stage.init else Stage.sched
                 T := if k + 16 = 63 then 0#6 else BitVec.ofNat 6 (k + 17) }

/-- R130, R131, R151, R152, with R10 and R11 for rotation and shift: the four mixing functions bit by
bit. Bit `i` of `rotr(x, n)` is bit `(i + n) mod 32` of `x`; bit `i` of `x >> n` is bit `i + n`, and
zero where that is above 31 (`getLsbD` reads `false` there). -/
def Obligations.MixingFunctionsBitwise : Prop :=
  ∀ (x : Word) (i : Nat), i < 32 →
    (sigma0 x).getLsbD i = ((x.getLsbD ((i + 7) % 32) ^^ x.getLsbD ((i + 18) % 32)) ^^
      x.getLsbD (i + 3)) ∧
    (sigma1 x).getLsbD i = ((x.getLsbD ((i + 17) % 32) ^^ x.getLsbD ((i + 19) % 32)) ^^
      x.getLsbD (i + 10)) ∧
    (bigSigma0 x).getLsbD i = ((x.getLsbD ((i + 2) % 32) ^^ x.getLsbD ((i + 13) % 32)) ^^
      x.getLsbD ((i + 22) % 32)) ∧
    (bigSigma1 x).getLsbD i = ((x.getLsbD ((i + 6) % 32) ^^ x.getLsbD ((i + 11) % 32)) ^^
      x.getLsbD ((i + 25) % 32))

/-- R153, R154: `Ch` takes the bit of `f` where `e` has 1 and the bit of `g` where `e` has 0; a bit of
`Maj` is the value that at least two of its three inputs hold. -/
def Obligations.ChooseAndMajority : Prop :=
  ∀ (x y z : Word) (i : Nat), i < 32 →
    (ch x y z).getLsbD i = (if x.getLsbD i then y.getLsbD i else z.getLsbD i) ∧
    ((maj x y z).getLsbD i = true ↔
      2 ≤ (x.getLsbD i).toNat + (y.getLsbD i).toNat + (z.getLsbD i).toNat)

/-! ### The compression engine -/

/-- R155: INIT copies `H` into the working registers and goes to round 0. Everything else is
unchanged. -/
def Obligations.InitCopiesState : Prop :=
  decodeSeq (Stage.init ++ 0#6) = .instr .init ∧
  ∀ s : State, ∃ t, exec .init s = .next t ∧ (∀ k : Fin 8, t.R[k] = s.H[k]) ∧
    t = { s with R := t.R, STAGE := Stage.round, T := 0#6 }

/-- R156: ROUND with index `k` rewrites the eight working registers from their old values, `W[k]` and
`K[k]`, every sum taken modulo 2^32, and goes to the next round, after the last one to ACCUM.
Everything else is unchanged. -/
def Obligations.RoundMixes : Prop :=
  ∀ (k : Nat) (hk : k < 64) (s : State),
    decodeSeq (Stage.round ++ BitVec.ofNat 6 k) = .instr (.round (BitVec.ofNat 6 k)) ∧
    ∃ t, exec (.round (BitVec.ofNat 6 k)) s = .next t ∧
      (let temp1 := (s.R[7].toNat + (bigSigma1 s.R[4]).toNat + (ch s.R[4] s.R[5] s.R[6]).toNat +
          config.K[k].toNat + s.W[k].toNat) % 2 ^ 32
       let temp2 := ((bigSigma0 s.R[0]).toNat + (maj s.R[0] s.R[1] s.R[2]).toNat) % 2 ^ 32
       t.R[7] = s.R[6] ∧ t.R[6] = s.R[5] ∧ t.R[5] = s.R[4] ∧
       t.R[4].toNat = (s.R[3].toNat + temp1) % 2 ^ 32 ∧
       t.R[3] = s.R[2] ∧ t.R[2] = s.R[1] ∧ t.R[1] = s.R[0] ∧
       t.R[0].toNat = (temp1 + temp2) % 2 ^ 32) ∧
      t = { s with R := t.R
                   STAGE := if k = 63 then Stage.accum else Stage.round
                   T := if k = 63 then 0#6 else BitVec.ofNat 6 (k + 1) }

/-! ### The state accumulator -/

/-- R171: ACCUM adds each working register into the State word of its index modulo 2^32, empties the
buffer, and goes to FINAL, to PADFILL or to IDLE by `LAST` and `FIN`. Everything else, the bytes of
`BUF` among it, is unchanged. -/
def Obligations.AccumAddsAndLeaves : Prop :=
  decodeSeq (Stage.accum ++ 0#6) = .instr .accum ∧
  ∀ s : State, ∃ t, exec .accum s = .next t ∧
    (∀ k : Fin 8, t.H[k].toNat = (s.H[k].toNat + s.R[k].toNat) % 2 ^ 32) ∧
    t = { s with H := t.H, BUFLEN := 0, T := 0#6
                 STAGE := if s.LAST = true then Stage.final
                   else if s.FIN = true then Stage.padfill else Stage.idle }

/-! ### One step -/

/-- R90, R77: a step uses up one input sample, takes back the last response, and without reset runs
the accepted command at rest or the micro-operation that `SEQ` selects; at rest with no command it
waits. -/
def Obligations.StepRunsDecodedInstruction : Prop :=
  ∀ s : State, s.sample.rst = false →
    s.tick = { s with inputs := s.inputs.tail, resp := none } ∧
    (∀ w i, (s.STAGE = Stage.idle ∨ s.STAGE = Stage.final) → s.T = 0#6 →
      s.sample.cmd = some w → decodeCommand w = .instr i → step s = exec i s.tick) ∧
    (∀ i, decodeSeq s.seq = .instr i → step s = exec i s.tick) ∧
    ((s.STAGE = Stage.idle ∨ s.STAGE = Stage.final) → s.T = 0#6 → s.sample.cmd = none →
      step s = .next s.tick)

/-- R187, R188, R189: FEED and FINALIZE in FINAL are refused with USAGE_ERROR and a word that matches
no row of R71 with ILLEGAL_COMMAND in either rest state; the refused word is used up and no other
state changes. -/
def Obligations.RefusedWordsLeaveNoTrace : Prop :=
  ∀ (s : State) (w : CmdWord), s.sample = { rst := false, cmd := some w } → s.T = 0#6 →
    (s.STAGE = Stage.final → (w &&& 0xF00 = 0x200 ∨ w = 0x300) →
      step s = .next { s with inputs := s.inputs.tail, resp := some .usageError }) ∧
    (s.STAGE = Stage.idle ∨ s.STAGE = Stage.final →
      w ≠ 0x100 → w &&& 0xF00 ≠ 0x200 → w ≠ 0x300 →
      step s = .next { s with inputs := s.inputs.tail, resp := some .illegalCommand })

/-- R193: which response an accepted word gets. Decoding comes first, then the stage check; and a
step with reset asserted accepts no command. -/
def Obligations.IllegalBeforeUsageError : Prop :=
  (∀ (s t : State) (w : CmdWord), s.sample = { rst := false, cmd := some w } → s.T = 0#6 →
    (s.STAGE = Stage.idle ∨ s.STAGE = Stage.final) → step s = .next t →
    t.respOut = some
      (if w ≠ 0x100 ∧ w &&& 0xF00 ≠ 0x200 ∧ w ≠ 0x300 then 2
       else if s.STAGE = Stage.final ∧ w ≠ 0x100 then 1 else 0)) ∧
  (∀ s : State, s.sample.rst = true → ∃ t, step s = .next t ∧ t.respValid = false)

/-- R75, R220: a busy engine does not look at its command port: whatever word is presented or
withdrawn, the step is the same, and it gives no response. -/
def Obligations.BusyEngineIgnoresPort : Prop :=
  ∀ (s : State) (c : Option CmdWord) (rest : List PortSample), s.busy = true →
    step { s with inputs := { rst := false, cmd := c } :: rest } =
      step { s with inputs := { rst := false, cmd := none } :: rest } ∧
    ∀ t, step { s with inputs := { rst := false, cmd := c } :: rest } = .next t →
      t.respValid = false ∧ t.inputs = rest

/-! ### Reset -/

/-- R38: the values after reset, and the outputs they give. (`R`, `W` and `BUF` are unspecified there;
the model's values for `R` and `W` are log entries 1 and 2 and not part of this statement. The digits
of `H0` are general knowledge in R30: log entry 7.) -/
def Obligations.ResetLeavesIdleEngine : Prop :=
  (∀ k : Fin 8, State.reset.H[k] = config.H0[k]) ∧ State.reset.BUFLEN.val = 0 ∧
  State.reset.TOTAL = 0 ∧ State.reset.STAGE = 0x0 ∧ State.reset.T = 0#6 ∧
  State.reset.FIN = false ∧ State.reset.LAST = false ∧
  State.reset.busy = false ∧ State.reset.cmdReady = true ∧ State.reset.digestValid = false ∧
  State.reset.digestOut = 0x6a09e667bb67ae853c6ef372a54ff53a510e527f9b05688c1f83d9ab5be0cd19

/-- R210, R211: a step with reset asserted, in any stage and with any word on the port, accepts no
command, runs no micro-operation, abandons the work in progress, and leaves the state of reset. (That
one step asserts and releases the reset is the model's choice: log entry 13.) -/
def Obligations.ResetAbandonsEveryStage : Prop :=
  ∀ s : State, s.sample.rst = true →
    ∃ t, step s = .next t ∧ t.H = config.H0 ∧ t.BUFLEN.val = 0 ∧ t.TOTAL = 0 ∧
      t.FIN = false ∧ t.LAST = false ∧ t.STAGE = Stage.idle ∧ t.T = 0#6 ∧
      t.digestValid = false ∧ t.respValid = false ∧ t.inputs = s.inputs.tail

/-! ### Invariants and rules about the whole engine -/

/-- The state after reset meets the invariant. -/
def Obligations.ResetMeetsInvariant : Prop := State.reset.Inv

/-- R37: every step keeps the invariant: `SEQ` legal, the fill count and the flags as their stage
asks, the fill count in step with `TOTAL`, the buffer in its canonical form and written below the
fill count. -/
def Obligations.StepKeepsInvariant : Prop :=
  ∀ s t : State, s.Inv → step s = .next t → t.Inv

/-- R39, R190: from a state with the invariant no step stops: no unwritten byte is read, no append
meets a full buffer, and `SEQ` is never reserved. -/
def Obligations.InvariantStatesNeverStop : Prop :=
  ∀ s : State, s.Inv → ∃ t, step s = .next t

/-- R35 (which the spec derives from the rules of the instructions): the transition table of `SEQ`, as
one function of the stage, the command accepted, the new
fill count and the flags. -/
def Obligations.SequencerFollowsTransitionTable : Prop :=
  ∀ s t : State, s.Inv → step s = .next t →
    (s.sample.rst = true → t.seq = Stage.idle ++ 0#6) ∧
    (s.sample.rst = false →
      (s.STAGE = Stage.idle → t.seq =
        if t.BUFLEN.val = 64 then Stage.loadw ++ 0#6
        else if s.sample.cmd = some 0x300 then Stage.padmark ++ 0#6 else Stage.idle ++ 0#6) ∧
      (s.STAGE = Stage.idle → (t.BUFLEN.val = 64 ↔
        s.BUFLEN.val = 63 ∧ ∃ b : Byte, s.sample.cmd = some (0x2#4 ++ b))) ∧
      (s.STAGE = Stage.final → t.seq =
        if s.sample.cmd = some 0x100 then Stage.idle ++ 0#6 else Stage.final ++ 0#6) ∧
      (s.STAGE = Stage.padmark ∨ s.STAGE = Stage.padfill → t.seq =
        if t.BUFLEN.val = 64 then Stage.loadw ++ 0#6
        else if t.BUFLEN.val = 56 then Stage.padlen ++ 0#6 else Stage.padfill ++ 0#6) ∧
      (s.STAGE = Stage.padlen → t.seq = Stage.loadw ++ 0#6) ∧
      (s.STAGE = Stage.loadw → t.seq =
        if s.T = 15#6 then Stage.sched ++ 16#6 else Stage.loadw ++ (s.T + 1#6)) ∧
      (s.STAGE = Stage.sched → t.seq =
        if s.T = 63#6 then Stage.init ++ 0#6 else Stage.sched ++ (s.T + 1#6)) ∧
      (s.STAGE = Stage.init → t.seq = Stage.round ++ 0#6) ∧
      (s.STAGE = Stage.round → t.seq =
        if s.T = 63#6 then Stage.accum ++ 0#6 else Stage.round ++ (s.T + 1#6)) ∧
      (s.STAGE = Stage.accum → t.seq =
        if s.LAST = true then Stage.final ++ 0#6
        else if s.FIN = true then Stage.padfill ++ 0#6 else Stage.idle ++ 0#6))

/-- R174: `H` is written by exactly three things. Reset and an accepted NEW load `H0`, ACCUM adds the
working registers word by word modulo 2^32, and every other step leaves `H` as it is. -/
def Obligations.OnlyResetNewAccumWriteH : Prop :=
  ∀ s t : State, step s = .next t →
    if s.sample.rst = true then t.H = config.H0
    else if (s.STAGE = Stage.idle ∨ s.STAGE = Stage.final) ∧ s.sample.cmd = some 0x100 then
      t.H = config.H0
    else if s.STAGE = Stage.accum then
      ∀ k : Fin 8, t.H[k].toNat = (s.H[k].toNat + s.R[k].toNat) % 2 ^ 32
    else t.H = s.H

/-- R26, R198: `TOTAL` is 0 after reset and NEW, one more modulo 2^64 after an accepted FEED, and
unchanged by every other step; padding is not counted. -/
def Obligations.TotalCountsFedBytes : Prop :=
  ∀ s t : State, step s = .next t →
    (s.sample.rst = true → t.TOTAL = 0) ∧
    (s.sample.rst = false →
      (s.busy = false → s.sample.cmd = some 0x100 → t.TOTAL = 0) ∧
      (s.STAGE = Stage.idle → (∃ b : Byte, s.sample.cmd = some (0x2#4 ++ b)) →
        t.TOTAL.toNat = (s.TOTAL.toNat + 1) % 2 ^ 64) ∧
      (s.busy = true ∨ s.STAGE = Stage.final ∧ s.sample.cmd ≠ some 0x100 ∨
        s.STAGE = Stage.idle ∧ s.sample.cmd ≠ some 0x100 ∧
          (¬∃ b : Byte, s.sample.cmd = some (0x2#4 ++ b)) →
        t.TOTAL = s.TOTAL))

/-- R172, R223: the digest stays on `digest_o`, marked valid, for as long as the host sends neither
NEW nor a reset, whatever else it sends. -/
def Obligations.DigestStaysUntilNewOrReset : Prop :=
  ∀ (n : Nat) (s : State), s.STAGE = Stage.final → s.T = 0#6 →
    (∀ p ∈ s.inputs.take n, p.rst = false ∧ p.cmd ≠ some 0x100) →
    Reaches s n fun t => t.digestValid = true ∧ t.digestOut = s.digestOut

/-- R96, with R39 and R175: two engines that agree on the content a later step can still read give
the same observations after every number of steps, whatever the host sends; so no output depends
on the unspecified content after reset, on stale bytes of `BUF`, or on `W` and `R` left by a block. -/
def Obligations.DeadContentNeverObserved : Prop :=
  ∀ (n : Nat) (s s' : State), s.Inv → s'.Inv → s.LiveEq s' →
    ∃ t t', run n s = .next t ∧ run n s' = .next t' ∧ t.LiveEq t' ∧ t.observe = t'.observe

/-! ### What the steps add up to -/

/-- R136 (derived in the spec from R133 to R135): after the 16 LOADW and the 48 SCHED of a block routine `W` is `Schedule` of the block in
`BUF`, and only `W` and `SEQ` have changed. -/
def Obligations.LoadAndSchedBuildSchedule : Prop :=
  ∀ (s : State) (b : Block), s.STAGE = Stage.loadw → s.T = 0#6 → s.HoldsBlock b → s.NoReset 64 →
    run 64 s = .next { s with W := schedule b, STAGE := Stage.init, T := 0#6, resp := none
                              inputs := s.inputs.drop 64 }

/-- R158 (derived in the spec from R155 to R157): after INIT and the 64 ROUND of a block routine `R` is `Compress(H, W)`, and `H` is as it
was. -/
def Obligations.RoundsComputeCompress : Prop :=
  ∀ s : State, s.STAGE = Stage.init → s.T = 0#6 → s.NoReset 65 →
    run 65 s = .next { s with R := compress s.H s.W, STAGE := Stage.accum, T := 0#6, resp := none
                              inputs := s.inputs.drop 65 }

/-- R119: the block routine on the block in `BUF` is 16 LOADW, 48 SCHED, INIT, 64 ROUND and ACCUM in
that order, 130 steps; its net effect on the State is `CompressBlock`, and it leaves by `LAST` and
`FIN`. -/
def Obligations.BlockRoutineCompressesBlock : Prop :=
  ∀ (s : State) (b : Block), s.STAGE = Stage.loadw → s.T = 0#6 → s.BUFLEN.val = 64 →
    s.HoldsBlock b → s.NoReset 130 →
    (∀ k < 130, Reaches s k fun u => u.seq =
      (if k < 16 then Stage.loadw ++ BitVec.ofNat 6 k
       else if k < 64 then Stage.sched ++ BitVec.ofNat 6 k
       else if k = 64 then Stage.init ++ 0#6
       else if k < 129 then Stage.round ++ BitVec.ofNat 6 (k - 65) else Stage.accum ++ 0#6)) ∧
    run 130 s = .next
      { s with H := compressBlock s.H b, W := schedule b, R := compress s.H (schedule b)
               BUFLEN := 0, T := 0#6, resp := none, inputs := s.inputs.drop 130
               STAGE := if s.LAST = true then Stage.final
                 else if s.FIN = true then Stage.padfill else Stage.idle }

/-- R94 (derived in the spec from R92, R119 and the rules it names): what an accepted FEED has done by the time the engine is at rest again: at once with fewer
than 63 bytes in the buffer, after 130 micro-operations with 63. -/
def Obligations.FeedRunsToRest : Prop :=
  ∀ (s : State) (b : Byte), s.Inv → s.STAGE = Stage.idle →
    s.sample = { rst := false, cmd := some (0x2#4 ++ b) } →
    (s.BUFLEN.val < 63 →
      Reaches s 1 fun t => t.BUF.read s.BUFLEN.val = some b ∧
        (∀ j < s.BUFLEN.val, t.BUF.read j = s.BUF.read j) ∧
        t.BUFLEN.val = s.BUFLEN.val + 1 ∧ t.TOTAL = s.TOTAL + 1 ∧ t.H = s.H ∧
        t.STAGE = Stage.idle) ∧
    (s.BUFLEN.val = 63 → s.NoReset 131 →
      ∀ B : Block, (∀ j (_ : j < 63), s.BUF.read j = some B[j]) → B[63] = b →
        (∀ k, 1 ≤ k → k ≤ 130 → Reaches s k fun u => u.busy = true) ∧
        Reaches s 131 fun t => t.H = compressBlock s.H B ∧ t.BUFLEN.val = 0 ∧
          t.TOTAL = s.TOTAL + 1 ∧ t.STAGE = Stage.idle ∧ t.FIN = false ∧ t.LAST = false ∧
          t.W = schedule B ∧ t.R = compress s.H (schedule B))

/-- R95 (derived in the spec from R93, R110 and the rules it names): what an accepted FINALIZE has done by the time the engine is at rest again, and after how
many micro-operations; and when the bytes fed are a message `m`, the digest is `Hash(m)`. -/
def Obligations.FinalizeRunsToRest : Prop :=
  ∀ s : State, s.Inv → s.STAGE = Stage.idle →
    s.sample = { rst := false, cmd := some 0x300 } →
    ∀ tail : List Byte, tail.length = s.BUFLEN.val →
      (∀ j < tail.length, s.BUF.read j = tail[j]?) →
      let z := padZeros tail.length
      let p := tail ++ [0x80#8] ++ List.replicate z 0x00#8 ++ be64Bytes (s.TOTAL * 8)
      let n := 2 + z + 130 * (p.length / 64)
      s.NoReset (n + 1) →
      (∀ k, 1 ≤ k → k ≤ n → Reaches s k fun u => u.busy = true) ∧
      Reaches s (n + 1) fun t =>
        t.H = (if tail.length ≤ 55 then compressBlock s.H (blockAt p 0)
          else compressBlock (compressBlock s.H (blockAt p 0)) (blockAt p 1)) ∧
        t.STAGE = Stage.final ∧ t.BUFLEN.val = 0 ∧ t.TOTAL = s.TOTAL ∧ t.FIN = true ∧
        t.LAST = true ∧ t.digestValid = true ∧
        ∀ m : List Byte, s.HoldsMessage m → digest t.H = hashMessage m

/-- R37 item 5: after reset, and after NEW at rest, the engine holds the empty message; and a FEED run
to rest appends its byte to the message held. -/
def Obligations.FedMessageIsHeld : Prop :=
  State.reset.HoldsMessage [] ∧
  (∀ s : State, s.T = 0#6 → s.STAGE = Stage.idle ∨ s.STAGE = Stage.final →
    ∃ t, send 0x100 s = .next t ∧ t.HoldsMessage []) ∧
  (∀ (s : State) (m : List Byte) (b : Byte), s.HoldsMessage m →
    ∃ t, send (0x2#4 ++ b) s = .next t ∧ t.HoldsMessage (m ++ [b]))

/-- R97, its last clause (derived in the spec from R91, R94, R95): from any rest state, NEW, one FEED for each byte of `m` in order, then FINALIZE, leaves
`Hash(m)` on `digest_o`, marked valid; after reset the NEW may be left out. -/
def Obligations.HashProgramComputesHash : Prop :=
  (∀ (s : State) (m : List Byte), s.T = 0#6 → s.STAGE = Stage.idle ∨ s.STAGE = Stage.final →
    ∃ t, sendAll (hashProgram m) s = .next t ∧ t.digestValid = true ∧ (hashMessage m).length = 32 ∧
      ∀ k < 32, (hashMessage m)[k]? = some (t.digestOut.extractLsb' (248 - 8 * k) 8)) ∧
  ∀ m : List Byte, ∃ t, sendAll (feeds m ++ [finalizeWord]) State.reset = .next t ∧
    t.digestValid = true ∧
    ∀ k < 32, (hashMessage m)[k]? = some (t.digestOut.extractLsb' (248 - 8 * k) 8)

/-- R98: however a message is cut into chunks, and however long the host pauses before each, feeding
the chunks after NEW and then sending FINALIZE gives the digest of one-shot `HASH` of the whole. -/
def Obligations.ChunksAndPausesDoNotMatter : Prop :=
  ∀ (s : State) (cs : List (Nat × List Byte)), s.T = 0#6 →
    s.STAGE = Stage.idle ∨ s.STAGE = Stage.final →
    ∃ t t', andThen (andThen (send newWord s) (sendChunks cs)) (send finalizeWord) = .next t ∧
      sendAll (hashProgram (cs.flatMap Prod.snd)) s = .next t' ∧
      t.digestOut = t'.digestOut ∧ t.digestValid = true ∧ t'.digestValid = true

/-- R227: a busy engine whose host does not assert reset is at rest again after at most 325 steps. -/
def Obligations.BusyPeriodsAreBounded : Prop :=
  ∀ s : State, s.Inv → s.busy = true → s.NoReset 325 →
    ∃ n, 1 ≤ n ∧ n ≤ 325 ∧ Reaches s n fun t => t.busy = false

/-! ### The pure functions -/

/-- R133: the schedule of a block: words 0 to 15 are its words, big-endian, and each later word is
the sum, modulo 2^32, that the recurrence gives. -/
def Obligations.ScheduleRecurrence : Prop :=
  ∀ b : Block,
    (∀ (t : Nat) (ht : t < 16), (schedule b)[t].toNat = b[4 * t].toNat * 2 ^ 24 +
      b[4 * t + 1].toNat * 2 ^ 16 + b[4 * t + 2].toNat * 2 ^ 8 + b[4 * t + 3].toNat) ∧
    ∀ (k : Nat) (hk : k < 48), (schedule b)[k + 16].toNat =
      ((schedule b)[k].toNat + (sigma0 (schedule b)[k + 1]).toNat + (schedule b)[k + 9].toNat +
        (sigma1 (schedule b)[k + 14]).toNat) % 2 ^ 32

/-- R157, R170: `Compress` is 64 rounds from the State, each rewriting the eight registers from their
old values; `CompressBlock` adds what they leave into the State, word by word modulo 2^32. -/
def Obligations.CompressionRounds : Prop :=
  (∀ (h : Vector Word 8) (w : Vector Word 64), ∃ r : Nat → Vector Word 8,
    r 0 = h ∧ r 64 = compress h w ∧ ∀ (i : Nat) (hi : i < 64),
      let temp1 := ((r i)[7].toNat + (bigSigma1 (r i)[4]).toNat +
        (ch (r i)[4] (r i)[5] (r i)[6]).toNat + config.K[i].toNat + w[i].toNat) % 2 ^ 32
      let temp2 := ((bigSigma0 (r i)[0]).toNat + (maj (r i)[0] (r i)[1] (r i)[2]).toNat) % 2 ^ 32
      (r (i + 1))[0].toNat = (temp1 + temp2) % 2 ^ 32 ∧ (r (i + 1))[1] = (r i)[0] ∧
      (r (i + 1))[2] = (r i)[1] ∧ (r (i + 1))[3] = (r i)[2] ∧
      (r (i + 1))[4].toNat = ((r i)[3].toNat + temp1) % 2 ^ 32 ∧ (r (i + 1))[5] = (r i)[4] ∧
      (r (i + 1))[6] = (r i)[5] ∧ (r (i + 1))[7] = (r i)[6]) ∧
  ∀ (h : Vector Word 8) (b : Block) (k : Fin 8),
    (compressBlock h b)[k].toNat = (h[k].toNat + (compress h (schedule b))[k].toNat) % 2 ^ 32

/-- R110: `Pad` appends 0x80, then zero bytes until the length is 56 modulo 64 (the fewest that do, and
that number is `(55 - n) mod 64`), then the length before padding in bits, modulo 2^64, in eight
bytes. -/
def Obligations.PadAppendsMarkZerosLength : Prop :=
  ∀ m : List Byte, ∃ z : Nat, (z : Int) = (55 - (m.length : Int)) % 64 ∧
    pad m = m ++ [0x80#8] ++ List.replicate z 0x00#8 ++
      be64Bytes (BitVec.ofNat 64 (m.length * 8 % 2 ^ 64)) ∧
    (m.length + 1 + z) % 64 = 56 ∧ (∀ y < z, (m.length + 1 + y) % 64 ≠ 56) ∧
    (pad m).length % 64 = 0

/-- R111 (derived in the spec from R110): the padded length is `n + 1 + z + 8` with `z` in 0 to 63, the
least multiple of 64 that is at least `n + 9`; it makes `floor((n + 8) / 64) + 1` blocks, and the
padding has 9 to 72 bytes. -/
def Obligations.PaddingSizes : Prop :=
  ∀ m : List Byte,
    (∃ z : Nat, z ≤ 63 ∧ (z : Int) = (55 - (m.length : Int)) % 64 ∧
      (pad m).length = m.length + 1 + z + 8) ∧
    (∀ k, m.length + 9 ≤ 64 * k ↔ (pad m).length ≤ 64 * k) ∧
    (blocks (pad m)).length = (m.length + 8) / 64 + 1 ∧
    (pad m).length = 64 * (blocks (pad m)).length ∧
    m.length + 9 ≤ (pad m).length ∧ (pad m).length ≤ m.length + 72

/-- R112: the blocks of a padded sequence, in order, cover it exactly once with no remainder. -/
def Obligations.BlocksCoverPaddedMessage : Prop :=
  ∀ p : List Byte, p.length % 64 = 0 →
    (blocks p).length = p.length / 64 ∧ (blocks p).flatMap Vector.toList = p

/-- R54: the digest is 32 bytes; byte `m` is bits `31 - 8(m mod 4)` down to `24 - 8(m mod 4)` of
`H[floor(m / 4)]`, and on the port `digest_o[255 - 8m : 248 - 8m]`. -/
def Obligations.DigestBytesOnPort : Prop :=
  ∀ s : State, (digest s.H).length = 32 ∧ ∀ (m : Nat) (hm : m < 32),
    (digest s.H)[m]? = some (s.H[m / 4].extractLsb' (24 - 8 * (m % 4)) 8) ∧
    (digest s.H)[m]? = some (s.digestOut.extractLsb' (248 - 8 * m) 8)

/-- R173: the digest in hexadecimal has 64 digits; digit `i` is the nibble of `digest_o` at bits
`255 - 4i` to `252 - 4i`, and the digit of the number `d` is the `d`-th of `0123456789abcdef`. -/
def Obligations.DigestInHexadecimal : Prop :=
  (∀ s : State, (hexDigest (digest s.H)).length = 64 ∧ ∀ i < 64,
    (hexDigest (digest s.H))[i]? = some (hexDigit (s.digestOut.extractLsb' (252 - 4 * i) 4))) ∧
  ∀ d : BitVec 4, "0123456789abcdef".toList[d.toNat]? = some (hexDigit d)

/-- R30, R150: the constant with index `i` of `H0` (of `K`) is the first 32 bits of the fractional
part of the square (cube) root of the prime that has exactly `i` primes below it. (The spec marks
this as general knowledge; log entry 7.) -/
def Obligations.TablesAreRootsOfPrimes : Prop :=
  ∀ p : Nat, p.Prime →
    (∀ h : Nat.count Nat.Prime p < 8, ∃ n, n ^ 2 ≤ p * 2 ^ 64 ∧ p * 2 ^ 64 < (n + 1) ^ 2 ∧
      config.H0[Nat.count Nat.Prime p].toNat = n % 2 ^ 32) ∧
    ∀ h : Nat.count Nat.Prime p < 64, ∃ n, n ^ 3 ≤ p * 2 ^ 96 ∧ p * 2 ^ 96 < (n + 1) ^ 3 ∧
      config.K[Nat.count Nat.Prime p].toNat = n % 2 ^ 32
end

