-- ==== Sys2Proof/Laws/Memory.lean ====
section
/-! SUPPORT. The laws of the block buffer: a read after a write, and that every write keeps the
canonical form. -/

namespace Sys2Proof.Machine

@[simp] theorem Memory.read_nil (j : Nat) : Memory.read [] j = none := rfl

theorem Memory.read_write (m : Memory) (j k : Nat) (v : Byte) :
    (m.write j v).read k = if k = j then some v else m.read k := by
  induction m with
  | nil => simp [Memory.write, Memory.read, eq_comm]
  | cons c m ih =>
    obtain ⟨a, b⟩ := c
    simp only [Memory.write]
    split
    · simp only [Memory.read, eq_comm]
    · split
      · subst_vars; simp only [Memory.read, eq_comm]; split <;> simp_all
      · simp only [Memory.read, ih]
        by_cases ha : a = k
        · subst ha; simp_all [eq_comm]
        · simp [ha]

@[simp] theorem Memory.read_write_same (m : Memory) (j : Nat) (v : Byte) :
    (m.write j v).read j = some v := by simp [Memory.read_write]

theorem Memory.read_write_other (m : Memory) {j k : Nat} (v : Byte) (h : k ≠ j) :
    (m.write j v).read k = m.read k := by simp [Memory.read_write, h]

/-- What consecutive writes leave at an index. -/
theorem Memory.read_writeAll (vs : List Byte) (m : Memory) (j k : Nat) :
    (m.writeAll j vs).read k =
      if j ≤ k ∧ k < j + vs.length then vs[k - j]? else m.read k := by
  induction vs generalizing m j with
  | nil => simp [Memory.writeAll]
  | cons v vs ih =>
    rw [Memory.writeAll, ih, Memory.read_write]
    simp only [List.length_cons]
    by_cases hk : k = j
    · subst hk
      simp
    · by_cases h : j + 1 ≤ k ∧ k < j + 1 + vs.length
      · have e : k - j = (k - (j + 1)) + 1 := by omega
        rw [if_pos h, if_pos (by omega), e, List.getElem?_cons_succ]
      · rw [if_neg h, if_neg hk, if_neg (by omega)]

/-- The indices of a memory after a write are those before it and the written one. -/
theorem Memory.mem_write {m : Memory} {j : Nat} {v : Byte} {c : Host.Cell}
    (h : c ∈ m.write j v) : c = (j, v) ∨ c ∈ m := by
  induction m with
  | nil => simpa [Memory.write] using h
  | cons d m ih =>
    obtain ⟨a, b⟩ := d
    simp only [Memory.write] at h
    split at h
    · simpa using h
    · split at h
      · rcases List.mem_cons.1 h with h | h <;> simp [h]
      · rcases List.mem_cons.1 h with h | h
        · simp [h]
        · rcases ih h with h | h <;> simp [h]

/-- A write at an index below 64 keeps the canonical form. -/
theorem Memory.wf_write {m : Memory} {j : Nat} (v : Byte) (hj : j < 64) (h : m.wf) :
    (m.write j v).wf := by
  refine ⟨?_, fun c hc => ?_⟩
  · obtain ⟨hp, -⟩ := h
    induction m with
    | nil => simp [Memory.write]
    | cons d m ih =>
      obtain ⟨a, b⟩ := d
      rw [List.pairwise_cons] at hp
      simp only [Memory.write]
      split
      · rename_i hlt
        refine List.pairwise_cons.2 ⟨fun c hc => ?_, List.pairwise_cons.2 hp⟩
        rcases List.mem_cons.1 hc with rfl | hc
        · exact hlt
        · exact Nat.lt_trans hlt (hp.1 c hc)
      · split
        · subst_vars; exact List.pairwise_cons.2 hp
        · refine List.pairwise_cons.2 ⟨fun c hc => ?_, ih hp.2⟩
          rcases Memory.mem_write hc with rfl | hc
          · show a < j
            omega
          · exact hp.1 c hc
  · rcases Memory.mem_write hc with rfl | hc
    · exact hj
    · exact h.2 c hc

/-- Consecutive writes below 64 keep the canonical form. -/
theorem Memory.wf_writeAll (vs : List Byte) {m : Memory} {j : Nat} (hj : j + vs.length ≤ 64)
    (h : m.wf) : (m.writeAll j vs).wf := by
  induction vs generalizing m j with
  | nil => exact h
  | cons v vs ih =>
    simp only [List.length_cons] at hj
    exact ih (by omega) (Memory.wf_write v (by omega) h)

theorem Memory.wf_nil : Memory.wf [] := by decide

/-- In canonical form no index from 64 up holds a value. -/
theorem Memory.read_eq_none_of_wf {m : Memory} (h : m.wf) {j : Nat} (hj : 64 ≤ j) :
    m.read j = none := by
  obtain ⟨-, h⟩ := h
  induction m with
  | nil => rfl
  | cons d m ih =>
    obtain ⟨a, b⟩ := d
    have ha : a < 64 := h (a, b) (by simp)
    rw [Memory.read, if_neg (by omega)]
    exact ih fun c hc => h c (by simp [hc])

/-- `MemRead(addr, 4)` of four written bytes. -/
theorem Memory.read32_ok {m : Memory} {a : Nat} {b0 b1 b2 b3 : Byte} (ha : a + 3 < 64)
    (h0 : m.read a = some b0) (h1 : m.read (a + 1) = some b1) (h2 : m.read (a + 2) = some b2)
    (h3 : m.read (a + 3) = some b3) : m.read32 a = .ok (be32 b0 b1 b2 b3) := by
  have l0 : a < 64 := by omega
  have l1 : a + 1 < 64 := by omega
  have l2 : a + 2 < 64 := by omega
  simp [Memory.read32, Memory.readByte, *]
  rfl

/-- `MemRead(addr, 4)` stops when one of the four bytes has no value. -/
theorem Memory.read32_unwritten {m : Memory} {a : Nat} (ha : a + 3 < 64)
    (h : ∃ i < 4, m.read (a + i) = none) : m.read32 a = .error .bufUnwritten := by
  have l0 : a < 64 := by omega
  have l1 : a + 1 < 64 := by omega
  have l2 : a + 2 < 64 := by omega
  obtain ⟨i, hi, h⟩ := h
  simp only [Memory.read32, Memory.readByte, l0, l1, l2, ha, if_true]
  cases h0 : m.read a with
  | none => rfl
  | some b0 =>
    cases h1 : m.read (a + 1) with
    | none => rfl
    | some b1 =>
      cases h2 : m.read (a + 2) with
      | none => rfl
      | some b2 =>
        cases h3 : m.read (a + 3) with
        | none => rfl
        | some b3 =>
          interval_cases i <;> simp_all

end Sys2Proof.Machine
end

