-- ==== Sys2Proof/Laws/State.lean ====
section
/-! SUPPORT. One lemma for each field of State and each named update of it, so that no later proof
unfolds an update. -/

namespace Sys2Proof.Machine

/-! ### `setSeq` -/

@[simp] theorem State.setSeq_H (s : State) (g : BitVec 4) (t : BitVec 6) : (s.setSeq g t).H = s.H := rfl
@[simp] theorem State.setSeq_R (s : State) (g : BitVec 4) (t : BitVec 6) : (s.setSeq g t).R = s.R := rfl
@[simp] theorem State.setSeq_W (s : State) (g : BitVec 4) (t : BitVec 6) : (s.setSeq g t).W = s.W := rfl
@[simp] theorem State.setSeq_BUF (s : State) (g : BitVec 4) (t : BitVec 6) : (s.setSeq g t).BUF = s.BUF := rfl
@[simp] theorem State.setSeq_BUFLEN (s : State) (g : BitVec 4) (t : BitVec 6) : (s.setSeq g t).BUFLEN = s.BUFLEN := rfl
@[simp] theorem State.setSeq_TOTAL (s : State) (g : BitVec 4) (t : BitVec 6) : (s.setSeq g t).TOTAL = s.TOTAL := rfl
@[simp] theorem State.setSeq_STAGE (s : State) (g : BitVec 4) (t : BitVec 6) : (s.setSeq g t).STAGE = g := rfl
@[simp] theorem State.setSeq_T (s : State) (g : BitVec 4) (t : BitVec 6) : (s.setSeq g t).T = t := rfl
@[simp] theorem State.setSeq_FIN (s : State) (g : BitVec 4) (t : BitVec 6) : (s.setSeq g t).FIN = s.FIN := rfl
@[simp] theorem State.setSeq_LAST (s : State) (g : BitVec 4) (t : BitVec 6) : (s.setSeq g t).LAST = s.LAST := rfl
@[simp] theorem State.setSeq_resp (s : State) (g : BitVec 4) (t : BitVec 6) : (s.setSeq g t).resp = s.resp := rfl
@[simp] theorem State.setSeq_inputs (s : State) (g : BitVec 4) (t : BitVec 6) : (s.setSeq g t).inputs = s.inputs := rfl

/-! ### `respond` -/

@[simp] theorem State.respond_H (s : State) (r : Response) : (s.respond r).H = s.H := rfl
@[simp] theorem State.respond_R (s : State) (r : Response) : (s.respond r).R = s.R := rfl
@[simp] theorem State.respond_W (s : State) (r : Response) : (s.respond r).W = s.W := rfl
@[simp] theorem State.respond_BUF (s : State) (r : Response) : (s.respond r).BUF = s.BUF := rfl
@[simp] theorem State.respond_BUFLEN (s : State) (r : Response) : (s.respond r).BUFLEN = s.BUFLEN := rfl
@[simp] theorem State.respond_TOTAL (s : State) (r : Response) : (s.respond r).TOTAL = s.TOTAL := rfl
@[simp] theorem State.respond_STAGE (s : State) (r : Response) : (s.respond r).STAGE = s.STAGE := rfl
@[simp] theorem State.respond_T (s : State) (r : Response) : (s.respond r).T = s.T := rfl
@[simp] theorem State.respond_FIN (s : State) (r : Response) : (s.respond r).FIN = s.FIN := rfl
@[simp] theorem State.respond_LAST (s : State) (r : Response) : (s.respond r).LAST = s.LAST := rfl
@[simp] theorem State.respond_resp (s : State) (r : Response) : (s.respond r).resp = some r := rfl
@[simp] theorem State.respond_inputs (s : State) (r : Response) : (s.respond r).inputs = s.inputs := rfl

/-! ### `raise` -/

@[simp] theorem State.raise_H (s : State) (e : Exn) : (s.raise e).H = s.H := rfl
@[simp] theorem State.raise_R (s : State) (e : Exn) : (s.raise e).R = s.R := rfl
@[simp] theorem State.raise_W (s : State) (e : Exn) : (s.raise e).W = s.W := rfl
@[simp] theorem State.raise_BUF (s : State) (e : Exn) : (s.raise e).BUF = s.BUF := rfl
@[simp] theorem State.raise_BUFLEN (s : State) (e : Exn) : (s.raise e).BUFLEN = s.BUFLEN := rfl
@[simp] theorem State.raise_TOTAL (s : State) (e : Exn) : (s.raise e).TOTAL = s.TOTAL := rfl
@[simp] theorem State.raise_STAGE (s : State) (e : Exn) : (s.raise e).STAGE = s.STAGE := rfl
@[simp] theorem State.raise_T (s : State) (e : Exn) : (s.raise e).T = s.T := rfl
@[simp] theorem State.raise_FIN (s : State) (e : Exn) : (s.raise e).FIN = s.FIN := rfl
@[simp] theorem State.raise_LAST (s : State) (e : Exn) : (s.raise e).LAST = s.LAST := rfl
@[simp] theorem State.raise_resp (s : State) (e : Exn) : (s.raise e).resp = some e.response := rfl
@[simp] theorem State.raise_inputs (s : State) (e : Exn) : (s.raise e).inputs = s.inputs := rfl

/-! ### `restart` -/

@[simp] theorem State.restart_H (s : State) : (s.restart).H = config.H0 := rfl
@[simp] theorem State.restart_R (s : State) : (s.restart).R = s.R := rfl
@[simp] theorem State.restart_W (s : State) : (s.restart).W = s.W := rfl
@[simp] theorem State.restart_BUF (s : State) : (s.restart).BUF = s.BUF := rfl
@[simp] theorem State.restart_BUFLEN (s : State) : (s.restart).BUFLEN = 0 := rfl
@[simp] theorem State.restart_TOTAL (s : State) : (s.restart).TOTAL = 0 := rfl
@[simp] theorem State.restart_STAGE (s : State) : (s.restart).STAGE = Stage.idle := rfl
@[simp] theorem State.restart_T (s : State) : (s.restart).T = 0#6 := rfl
@[simp] theorem State.restart_FIN (s : State) : (s.restart).FIN = false := rfl
@[simp] theorem State.restart_LAST (s : State) : (s.restart).LAST = false := rfl
@[simp] theorem State.restart_resp (s : State) : (s.restart).resp = s.resp := rfl
@[simp] theorem State.restart_inputs (s : State) : (s.restart).inputs = s.inputs := rfl

/-! ### `countByte` -/

@[simp] theorem State.countByte_H (s : State) : (s.countByte).H = s.H := rfl
@[simp] theorem State.countByte_R (s : State) : (s.countByte).R = s.R := rfl
@[simp] theorem State.countByte_W (s : State) : (s.countByte).W = s.W := rfl
@[simp] theorem State.countByte_BUF (s : State) : (s.countByte).BUF = s.BUF := rfl
@[simp] theorem State.countByte_BUFLEN (s : State) : (s.countByte).BUFLEN = s.BUFLEN := rfl
@[simp] theorem State.countByte_TOTAL (s : State) : (s.countByte).TOTAL = s.TOTAL + 1 := rfl
@[simp] theorem State.countByte_STAGE (s : State) : (s.countByte).STAGE = s.STAGE := rfl
@[simp] theorem State.countByte_T (s : State) : (s.countByte).T = s.T := rfl
@[simp] theorem State.countByte_FIN (s : State) : (s.countByte).FIN = s.FIN := rfl
@[simp] theorem State.countByte_LAST (s : State) : (s.countByte).LAST = s.LAST := rfl
@[simp] theorem State.countByte_resp (s : State) : (s.countByte).resp = s.resp := rfl
@[simp] theorem State.countByte_inputs (s : State) : (s.countByte).inputs = s.inputs := rfl

/-! ### `setW` -/

@[simp] theorem State.setW_H (s : State) (t : BitVec 6) (v : Word) : (s.setW t v).H = s.H := rfl
@[simp] theorem State.setW_R (s : State) (t : BitVec 6) (v : Word) : (s.setW t v).R = s.R := rfl
@[simp] theorem State.setW_W (s : State) (t : BitVec 6) (v : Word) : (s.setW t v).W = wSet s.W t v := rfl
@[simp] theorem State.setW_BUF (s : State) (t : BitVec 6) (v : Word) : (s.setW t v).BUF = s.BUF := rfl
@[simp] theorem State.setW_BUFLEN (s : State) (t : BitVec 6) (v : Word) : (s.setW t v).BUFLEN = s.BUFLEN := rfl
@[simp] theorem State.setW_TOTAL (s : State) (t : BitVec 6) (v : Word) : (s.setW t v).TOTAL = s.TOTAL := rfl
@[simp] theorem State.setW_STAGE (s : State) (t : BitVec 6) (v : Word) : (s.setW t v).STAGE = s.STAGE := rfl
@[simp] theorem State.setW_T (s : State) (t : BitVec 6) (v : Word) : (s.setW t v).T = s.T := rfl
@[simp] theorem State.setW_FIN (s : State) (t : BitVec 6) (v : Word) : (s.setW t v).FIN = s.FIN := rfl
@[simp] theorem State.setW_LAST (s : State) (t : BitVec 6) (v : Word) : (s.setW t v).LAST = s.LAST := rfl
@[simp] theorem State.setW_resp (s : State) (t : BitVec 6) (v : Word) : (s.setW t v).resp = s.resp := rfl
@[simp] theorem State.setW_inputs (s : State) (t : BitVec 6) (v : Word) : (s.setW t v).inputs = s.inputs := rfl

/-! ### `setR` -/

@[simp] theorem State.setR_H (s : State) (r : Vector Word 8) : (s.setR r).H = s.H := rfl
@[simp] theorem State.setR_R (s : State) (r : Vector Word 8) : (s.setR r).R = r := rfl
@[simp] theorem State.setR_W (s : State) (r : Vector Word 8) : (s.setR r).W = s.W := rfl
@[simp] theorem State.setR_BUF (s : State) (r : Vector Word 8) : (s.setR r).BUF = s.BUF := rfl
@[simp] theorem State.setR_BUFLEN (s : State) (r : Vector Word 8) : (s.setR r).BUFLEN = s.BUFLEN := rfl
@[simp] theorem State.setR_TOTAL (s : State) (r : Vector Word 8) : (s.setR r).TOTAL = s.TOTAL := rfl
@[simp] theorem State.setR_STAGE (s : State) (r : Vector Word 8) : (s.setR r).STAGE = s.STAGE := rfl
@[simp] theorem State.setR_T (s : State) (r : Vector Word 8) : (s.setR r).T = s.T := rfl
@[simp] theorem State.setR_FIN (s : State) (r : Vector Word 8) : (s.setR r).FIN = s.FIN := rfl
@[simp] theorem State.setR_LAST (s : State) (r : Vector Word 8) : (s.setR r).LAST = s.LAST := rfl
@[simp] theorem State.setR_resp (s : State) (r : Vector Word 8) : (s.setR r).resp = s.resp := rfl
@[simp] theorem State.setR_inputs (s : State) (r : Vector Word 8) : (s.setR r).inputs = s.inputs := rfl

/-! ### `setFin` -/

@[simp] theorem State.setFin_H (s : State) : (s.setFin).H = s.H := rfl
@[simp] theorem State.setFin_R (s : State) : (s.setFin).R = s.R := rfl
@[simp] theorem State.setFin_W (s : State) : (s.setFin).W = s.W := rfl
@[simp] theorem State.setFin_BUF (s : State) : (s.setFin).BUF = s.BUF := rfl
@[simp] theorem State.setFin_BUFLEN (s : State) : (s.setFin).BUFLEN = s.BUFLEN := rfl
@[simp] theorem State.setFin_TOTAL (s : State) : (s.setFin).TOTAL = s.TOTAL := rfl
@[simp] theorem State.setFin_STAGE (s : State) : (s.setFin).STAGE = s.STAGE := rfl
@[simp] theorem State.setFin_T (s : State) : (s.setFin).T = s.T := rfl
@[simp] theorem State.setFin_FIN (s : State) : (s.setFin).FIN = true := rfl
@[simp] theorem State.setFin_LAST (s : State) : (s.setFin).LAST = s.LAST := rfl
@[simp] theorem State.setFin_resp (s : State) : (s.setFin).resp = s.resp := rfl
@[simp] theorem State.setFin_inputs (s : State) : (s.setFin).inputs = s.inputs := rfl

/-! ### `setLast` -/

@[simp] theorem State.setLast_H (s : State) : (s.setLast).H = s.H := rfl
@[simp] theorem State.setLast_R (s : State) : (s.setLast).R = s.R := rfl
@[simp] theorem State.setLast_W (s : State) : (s.setLast).W = s.W := rfl
@[simp] theorem State.setLast_BUF (s : State) : (s.setLast).BUF = s.BUF := rfl
@[simp] theorem State.setLast_BUFLEN (s : State) : (s.setLast).BUFLEN = s.BUFLEN := rfl
@[simp] theorem State.setLast_TOTAL (s : State) : (s.setLast).TOTAL = s.TOTAL := rfl
@[simp] theorem State.setLast_STAGE (s : State) : (s.setLast).STAGE = s.STAGE := rfl
@[simp] theorem State.setLast_T (s : State) : (s.setLast).T = s.T := rfl
@[simp] theorem State.setLast_FIN (s : State) : (s.setLast).FIN = s.FIN := rfl
@[simp] theorem State.setLast_LAST (s : State) : (s.setLast).LAST = true := rfl
@[simp] theorem State.setLast_resp (s : State) : (s.setLast).resp = s.resp := rfl
@[simp] theorem State.setLast_inputs (s : State) : (s.setLast).inputs = s.inputs := rfl

/-! ### `tick` -/

@[simp] theorem State.tick_H (s : State) : (s.tick).H = s.H := rfl
@[simp] theorem State.tick_R (s : State) : (s.tick).R = s.R := rfl
@[simp] theorem State.tick_W (s : State) : (s.tick).W = s.W := rfl
@[simp] theorem State.tick_BUF (s : State) : (s.tick).BUF = s.BUF := rfl
@[simp] theorem State.tick_BUFLEN (s : State) : (s.tick).BUFLEN = s.BUFLEN := rfl
@[simp] theorem State.tick_TOTAL (s : State) : (s.tick).TOTAL = s.TOTAL := rfl
@[simp] theorem State.tick_STAGE (s : State) : (s.tick).STAGE = s.STAGE := rfl
@[simp] theorem State.tick_T (s : State) : (s.tick).T = s.T := rfl
@[simp] theorem State.tick_FIN (s : State) : (s.tick).FIN = s.FIN := rfl
@[simp] theorem State.tick_LAST (s : State) : (s.tick).LAST = s.LAST := rfl
@[simp] theorem State.tick_resp (s : State) : (s.tick).resp = none := rfl
@[simp] theorem State.tick_inputs (s : State) : (s.tick).inputs = s.inputs.tail := rfl

/-! ### `resetEngine` -/

@[simp] theorem State.resetEngine_eq (s : State) :
    s.resetEngine = { State.reset with inputs := s.inputs } := rfl

@[simp] theorem State.resume_eq (s : State) : s.resume = s := rfl

/-! ### Outputs -/

@[simp] theorem State.tick_seq (s : State) : s.tick.seq = s.seq := rfl
@[simp] theorem State.tick_atRest (s : State) : s.tick.atRest = s.atRest := rfl
@[simp] theorem State.tick_busy (s : State) : s.tick.busy = s.busy := rfl

end Sys2Proof.Machine
end

