-- ==== Sys2Proof/Laws/Ops.lean ====
section
/-! SUPPORT. What each shared operation, and each step, can do, said once: later proofs cite these
lemmas and do not unfold the operations. -/

namespace Sys2Proof.Machine

/-! ### The table of round constants -/

/-- The round constant with index `i` stands in line `i / 4`, column `i % 4` of the table of R150. -/
theorem config_K_at (i : Nat) (h : i < 64) : config.K[i] = roundConstantLines[i / 4][i % 4] := by
  simp [config]

/-! ### Appending to the buffer -/

/-- All that an append can do: below a full buffer it writes the byte and counts it. -/
theorem State.append_cases (s : State) (b : Byte) :
    (∃ h : s.BUFLEN.val < 64, s.append b = .ok
      { s with BUF := s.BUF.write s.BUFLEN.val b, BUFLEN := ⟨s.BUFLEN.val + 1, by omega⟩ }) ∨
    (s.BUFLEN.val = 64 ∧ s.append b = .error .bufIndexOutOfRange) := by
  by_cases h : s.BUFLEN.val < 64
  · exact .inl ⟨h, by simp [State.append, h]⟩
  · exact .inr ⟨by omega, by simp [State.append, h]⟩

theorem State.append_of_lt {s : State} (b : Byte) (h : s.BUFLEN.val < 64) :
    s.append b = .ok
      { s with BUF := s.BUF.write s.BUFLEN.val b, BUFLEN := ⟨s.BUFLEN.val + 1, by omega⟩ } := by
  simp [State.append, h]

theorem State.append_of_full {s : State} (b : Byte) (h : s.BUFLEN.val = 64) :
    s.append b = .error .bufIndexOutOfRange := by
  simp [State.append, h]

/-- The padder's successor rule as one choice of stage (R118). -/
theorem nextPad_eq (s : State) (m : Nat) :
    nextPad s m = s.setSeq
      (if m = 64 then Stage.loadw else if m = 56 then Stage.padlen else Stage.padfill) 0#6 := by
  simp only [nextPad]; split
  · rfl
  · split <;> rfl

/-- A padding byte below a full buffer. -/
theorem padByte_of_lt (b : Byte) {s : State} (h : s.BUFLEN.val < 64) :
    padByte b s = .next
      { s with
        BUF := s.BUF.write s.BUFLEN.val b
        BUFLEN := ⟨s.BUFLEN.val + 1, by omega⟩
        STAGE := if s.BUFLEN.val + 1 = 64 then Stage.loadw
          else if s.BUFLEN.val + 1 = 56 then Stage.padlen else Stage.padfill
        T := 0#6 } := by
  simp only [padByte, State.append_of_lt b h, nextPad_eq]; rfl

theorem padByte_of_full (b : Byte) {s : State} (h : s.BUFLEN.val = 64) :
    padByte b s = .fault .bufIndexOutOfRange := by
  simp [padByte, State.append_of_full b h]

/-! ### The schedule file -/

@[simp] theorem wAt_wSet (w : Vector Word 64) (t u : BitVec 6) (v : Word) :
    wAt (wSet w t v) u = if u = t then v else wAt w u := by
  simp only [wAt, wSet, Vector.getElem_set, BitVec.toNat_inj, eq_comm]

/-! ### The decoders -/

/-- A command word never decodes to a micro-operation. -/
theorem decodeCommand_cases {w : CmdWord} {i : Instr} (h : decodeCommand w = .instr i) :
    (i = .new ∧ cmdOp w = 0x1 ∧ cmdData w = 0) ∨ (i = .feed (cmdData w) ∧ cmdOp w = 0x2) ∨
    (i = .finalize ∧ cmdOp w = 0x3 ∧ cmdData w = 0) := by
  unfold decodeCommand at h
  split at h
  · cases h; simp_all
  · split at h
    · cases h; simp_all
    · split at h
      · cases h; simp_all
      · cases h

/-- A value of `SEQ` never decodes to a command. -/
theorem decodeSeq_cases {w : SeqWord} {i : Instr} (h : decodeSeq w = .instr i) :
    (i = .padmark ∧ seqStage w = Stage.padmark ∧ seqT w = 0#6) ∨
    (i = .padfill ∧ seqStage w = Stage.padfill ∧ seqT w = 0#6) ∨
    (i = .padlen ∧ seqStage w = Stage.padlen ∧ seqT w = 0#6) ∨
    (i = .loadw ((seqT w).extractLsb' 0 4) ∧ seqStage w = Stage.loadw ∧ (seqT w).toNat < 16) ∨
    (i = .sched (seqT w) ∧ seqStage w = Stage.sched ∧ 16 ≤ (seqT w).toNat) ∨
    (i = .init ∧ seqStage w = Stage.init ∧ seqT w = 0#6) ∨
    (i = .round (seqT w) ∧ seqStage w = Stage.round) ∨
    (i = .accum ∧ seqStage w = Stage.accum ∧ seqT w = 0#6) := by
  unfold decodeSeq at h
  repeat' split at h
  all_goals first | contradiction | (cases h; simp_all)

@[simp] theorem seqStage_append (g : BitVec 4) (t : BitVec 6) : seqStage (g ++ t) = g := by
  apply BitVec.eq_of_getLsbD_eq
  intro i hi
  have h := BitVec.getLsbD_append (x := g) (y := t) (i := 6 + i)
  simpa [seqStage, hi] using h

@[simp] theorem seqT_append (g : BitVec 4) (t : BitVec 6) : seqT (g ++ t) = t := by
  apply BitVec.eq_of_getLsbD_eq
  intro i hi
  have h := BitVec.getLsbD_append (x := g) (y := t) (i := i)
  simpa [seqT, hi] using h

@[simp] theorem seqStage_seq (s : State) : seqStage s.seq = s.STAGE := seqStage_append _ _

@[simp] theorem seqT_seq (s : State) : seqT s.seq = s.T := seqT_append _ _

theorem State.atRest_iff (s : State) :
    s.atRest = true ↔ (s.STAGE = Stage.idle ∨ s.STAGE = Stage.final) ∧ s.T = 0#6 := by
  have key (g : BitVec 4) : s.seq = g ++ 0#6 ↔ s.STAGE = g ∧ s.T = 0#6 := by
    constructor
    · intro h
      exact ⟨by rw [← seqStage_seq s, h, seqStage_append], by rw [← seqT_seq s, h, seqT_append]⟩
    · rintro ⟨rfl, ht⟩; rw [State.seq, ht]
  simp only [State.atRest, Bool.or_eq_true, beq_iff_eq, key]
  tauto

/-! ### One step -/

/-- All that a step can do. -/
theorem step_cases (s : State) :
    (s.sample.rst = true ∧ step s = .next { State.reset with inputs := s.inputs.tail }) ∨
    (s.sample.rst = false ∧ s.atRest = true ∧ s.sample.cmd = none ∧ step s = .next s.tick) ∨
    (∃ w i, s.sample.rst = false ∧ s.atRest = true ∧ s.sample.cmd = some w ∧
      decodeCommand w = .instr i ∧ step s = exec i s.tick) ∨
    (∃ w e, s.sample.rst = false ∧ s.atRest = true ∧ s.sample.cmd = some w ∧
      decodeCommand w = .reject e ∧ step s = .next (s.tick.raise .illegalCommand)) ∨
    (∃ i, s.sample.rst = false ∧ s.atRest = false ∧ decodeSeq s.seq = .instr i ∧
      step s = exec i s.tick) ∨
    (∃ e, s.sample.rst = false ∧ s.atRest = false ∧ decodeSeq s.seq = .reject e ∧
      step s = .fault .reservedSeq) := by
  unfold step engineStep
  cases hr : s.sample.rst
  · cases ha : s.atRest
    · cases hd : decodeSeq s.seq <;> simp [runUop, ha, hd]
    · cases hc : s.sample.cmd with
      | none => simp [acceptPort, ha]
      | some w => cases hd : decodeCommand w <;> simp [acceptPort, ha, hd]
  · simp

end Sys2Proof.Machine
end

