-- ==== Sys2Proof/Laws/PerInstr.lean ====
section
/-! SUPPORT. A statement about every instruction, one lemma for each constructor: the encoded word
meets the mask and match of the instruction's row in the opcode table (R71, R77). -/

namespace Sys2Proof.Laws.RowMatch

/-- Mask and match of an instruction's row, as R71 and R77 print them. -/
def row : Instr → Nat × Nat
  | .new => (0xFFF, 0x100)
  | .feed _ => (0xF00, 0x200)
  | .finalize => (0xFFF, 0x300)
  | .padmark => (0x3FF, 0x040)
  | .padfill => (0x3FF, 0x080)
  | .padlen => (0x3FF, 0x0C0)
  | .loadw _ => (0x3F0, 0x100)
  | .sched _ => (0x3C0, 0x140)
  | .init => (0x3FF, 0x180)
  | .round _ => (0x3C0, 0x1C0)
  | .accum => (0x3FF, 0x200)

/-- The number of a word. -/
def number : CodeWord → Nat
  | .command w => w.toNat
  | .seq w => w.toNat

/-- The encoded word, masked, is the row's match. -/
def Statement (i : Instr) : Prop := number (encode i) &&& (row i).1 = (row i).2

theorem new : Statement .new := rfl
theorem feed (b : Byte) : Statement (.feed b) := by revert b; unfold Statement; decide
theorem finalize : Statement .finalize := rfl
theorem padmark : Statement .padmark := rfl
theorem padfill : Statement .padfill := rfl
theorem padlen : Statement .padlen := rfl
theorem loadw (t : BitVec 4) : Statement (.loadw t) := by revert t; unfold Statement; decide
theorem sched (t : BitVec 6) : Statement (.sched t) := by revert t; unfold Statement; decide
theorem init : Statement .init := rfl
theorem round (t : BitVec 6) : Statement (.round t) := by revert t; unfold Statement; decide
theorem accum : Statement .accum := rfl

end Sys2Proof.Laws.RowMatch
end

