-- ==== Sys2Proof/Laws/Steps.lean ====
section
/-! SUPPORT. Inversion of a step that answers a next state: which input it used, which instruction it
ran, and the whole next state written out; and how runs compose. Invariant proofs split on these
lemmas and unfold no meaning. -/

namespace Sys2Proof.Machine

/-! ### Micro-operations -/

/-- A padding byte that was appended found room for it. -/
theorem padByte_next {s t : State} {b : Byte} (h : padByte b s = .next t) :
    ∃ hl : s.BUFLEN.val < 64, t =
      { s with
        BUF := s.BUF.write s.BUFLEN.val b
        BUFLEN := ⟨s.BUFLEN.val + 1, by omega⟩
        STAGE := if s.BUFLEN.val + 1 = 64 then Stage.loadw
          else if s.BUFLEN.val + 1 = 56 then Stage.padlen else Stage.padfill
        T := 0#6 } := by
  by_cases hl : s.BUFLEN.val < 64
  · rw [padByte_of_lt b hl] at h; cases h; exact ⟨hl, rfl⟩
  · rw [padByte_of_full b (by omega)] at h; cases h

/-- A LOADW that went on found its four bytes written. -/
theorem execLoadw_next {s t : State} {u : BitVec 4} (h : execLoadw u s = .next t) :
    ∃ v, s.BUF.read32 (4 * u.toNat) = .ok v ∧ t =
      { s with
        W := wSet s.W (u.setWidth 6) v
        STAGE := if u = 15#4 then Stage.sched else Stage.loadw
        T := u.setWidth 6 + 1#6 } := by
  simp only [execLoadw] at h
  split at h
  · cases h
  · next v hv =>
    refine ⟨v, hv, ?_⟩
    cases h; split
    · next h => subst h; rfl
    · rfl

/-- A SCHED that went on has a legal index. -/
theorem execSched_next {s t : State} {u : BitVec 6} (h : execSched u s = .next t) :
    16 ≤ u.toNat ∧ t =
      { s with
        W := wSet s.W u (scheduleWord s.W u)
        STAGE := if u = 63#6 then Stage.init else Stage.sched
        T := u + 1#6 } := by
  simp only [execSched] at h
  split at h
  · cases h
  · next hu =>
    refine ⟨by omega, ?_⟩
    cases h; split
    · next h => subst h; rfl
    · rfl

/-- A ROUND always goes on. -/
theorem execRound_eq (s : State) (u : BitVec 6) :
    execRound u s = .next
      { s with
        R := roundRegs s.R (kAt u) (wAt s.W u)
        STAGE := if u = 63#6 then Stage.accum else Stage.round
        T := u + 1#6 } := by
  simp only [execRound]
  split
  · next h => subst h; rfl
  · rfl

/-- An ACCUM always goes on. -/
theorem execAccum_eq (s : State) :
    execAccum s = .next
      { s with
        H := accumulate s.H s.R
        BUFLEN := 0
        STAGE := if s.LAST then Stage.final else if s.FIN then Stage.padfill else Stage.idle
        T := 0#6 } := by
  simp only [execAccum]
  cases s.LAST <;> cases s.FIN <;> rfl

/-! ### Fields of a command word -/

/-- A command word is its `OP` over its `DATA`. -/
theorem cmdWord_eq (w : CmdWord) : w = cmdOp w ++ cmdData w := by
  apply BitVec.eq_of_getLsbD_eq
  intro i hi
  rw [BitVec.getLsbD_append]
  simp only [cmdOp, cmdData, BitVec.getLsbD_extractLsb']
  split
  · simp [*]
  · rw [show 8 + (i - 8) = i by omega]; simp; omega

@[simp] theorem cmdOp_append (g : BitVec 4) (d : Byte) : cmdOp (g ++ d) = g := by
  apply BitVec.eq_of_getLsbD_eq
  intro i hi
  have h := BitVec.getLsbD_append (x := g) (y := d) (i := 8 + i)
  simpa [cmdOp, hi] using h

@[simp] theorem cmdData_append (g : BitVec 4) (d : Byte) : cmdData (g ++ d) = d := by
  apply BitVec.eq_of_getLsbD_eq
  intro i hi
  have h := BitVec.getLsbD_append (x := g) (y := d) (i := i)
  simpa [cmdData, hi] using h

/-! ### Runs -/

theorem andThen_assoc (o : Host.Outcome State Fault Refusal)
    (f g : State → Host.Outcome State Fault Refusal) :
    andThen (andThen o f) g = andThen o fun s => andThen (f s) g := by
  cases o <;> rfl

@[simp] theorem andThen_next (o : Host.Outcome State Fault Refusal) : andThen o .next = o := by
  cases o <;> rfl

@[simp] theorem run_one (s : State) : run 1 s = step s := andThen_next _

theorem run_add (m n : Nat) (s : State) : run (m + n) s = andThen (run m s) (run n) := by
  induction m generalizing s with
  | zero => simp [run, andThen]
  | succ m ih =>
    rw [Nat.succ_add]
    simp only [run]
    rw [andThen_assoc]
    congr 1; funext s; exact ih s

/-- Two runs one after the other. -/
theorem run_trans {s u v : State} {m n : Nat} (h1 : run m s = .next u) (h2 : run n u = .next v) :
    run (m + n) s = .next v := by
  rw [run_add, h1]; exact h2

end Sys2Proof.Machine
end

