-- ==== Sys2Proof/Tests/Slice0.lean ====
section
/-! SUPPORT. Tests of one step each, with the values that spec/95_test_vectors.md gives (its section is
named at each test), the smoke test of the well-formedness check, words decoded as the spec writes
them, and for every statement with hypotheses a concrete input that meets them all. -/

namespace Sys2Proof.Tests

open Sys2Proof Sys2Proof.Machine

/-! ### Helpers -/

/-- The next state of an outcome. -/
def nextOf (o : Host.Outcome State Fault Refusal) : Option State :=
  match o with
  | .next s => some s
  | .fault _ => none
  | .refused _ => none

/-- The fault of an outcome. -/
def faultOf (o : Host.Outcome State Fault Refusal) : Option Fault :=
  match o with
  | .next _ => none
  | .fault f => some f
  | .refused _ => none

/-- A buffer whose first `n` bytes are `b`. -/
def filled (n : Nat) (b : Byte) : Memory := (List.range n).map fun i => (i, b)

/-- A state in a given stage, the rest as after reset. -/
def mk (stage : BitVec 4) (t : BitVec 6) (n : Fin 65) (fin last : Bool) (buf : Memory) : State :=
  { State.reset with STAGE := stage, T := t, BUFLEN := n, FIN := fin, LAST := last, BUF := buf }

/-- A state at rest in the middle of a message of `n` bytes. -/
def idle (n : Fin 65) (total : BitVec 64) : State :=
  { mk Stage.idle 0 n false false (filled n.val 0x61) with TOTAL := total }

/-- A state that holds a digest. -/
def final : State := { mk Stage.final 0 0 true true (filled 64 0x61) with TOTAL := 3 }

/-- A state with one word on the command port of the next step. -/
def onPort (s : State) (w : CmdWord) : State := { s with inputs := [{ rst := false, cmd := some w }] }

/-- A state whose next step has reset asserted. -/
def inReset (s : State) : State := { s with inputs := [{ rst := true, cmd := some 0x100 }] }

/-- The block routine on a block of equal bytes, started by FEED. -/
def inBlock (stage : BitVec 4) (t : BitVec 6) : State :=
  { mk stage t 64 false false (filled 64 0x61) with TOTAL := 64 }

/-- The padder, with `n` bytes in the buffer. -/
def inPadding (stage : BitVec 4) (n : Fin 65) (total : BitVec 64) : State :=
  { mk stage 0 n true false (filled n.val 0x61) with TOTAL := total }

/-! ### Well-formedness -/

theorem test_wellFormed_refuses_sched_below_16 :
    (Instr.sched 0).wellFormed = false ∧ (Instr.sched 15).wellFormed = false := by decide

theorem test_wellFormed_accepts_bounds :
    (Instr.sched 16).wellFormed = true ∧ (Instr.sched 63).wellFormed = true ∧
    (Instr.feed 0xFF).wellFormed = true ∧ (Instr.loadw 15).wellFormed = true := by decide

/-! ### Decoding: the words of R71 and R77, and section 7 -/

theorem test_decode_new : decodeCommand 0b000100000000#12 = .instr .new := by decide
theorem test_decode_feed : decodeCommand 0b001001100001#12 = .instr (.feed 0x61) ∧
    decodeCommand 0b001011111111#12 = .instr (.feed 0xFF) ∧
    decodeCommand 0b001000000000#12 = .instr (.feed 0x00) := by decide
theorem test_decode_finalize : decodeCommand 0b001100000000#12 = .instr .finalize := by decide
theorem test_decode_illegal :
    decodeCommand 0x000 = .reject (.illegalCommand 0x000) ∧
    decodeCommand 0x101 = .reject (.illegalCommand 0x101) ∧
    decodeCommand 0x1ff = .reject (.illegalCommand 0x1ff) ∧
    decodeCommand 0x301 = .reject (.illegalCommand 0x301) ∧
    decodeCommand 0x461 = .reject (.illegalCommand 0x461) ∧
    decodeCommand 0xfff = .reject (.illegalCommand 0xfff) := ⟨rfl, rfl, rfl, rfl, rfl, rfl⟩
theorem test_decode_padmark : decodeSeq 0b0001000000#10 = .instr .padmark := by decide
theorem test_decode_padfill : decodeSeq 0b0010000000#10 = .instr .padfill := by decide
theorem test_decode_padlen : decodeSeq 0b0011000000#10 = .instr .padlen := by decide
theorem test_decode_loadw : decodeSeq 0b0100000000#10 = .instr (.loadw 0) ∧
    decodeSeq 0b0100001111#10 = .instr (.loadw 15) ∧
    decodeSeq 0b0100000001#10 = .instr (.loadw 1) := by decide
theorem test_decode_sched : decodeSeq 0b0101010000#10 = .instr (.sched 16) ∧
    decodeSeq 0b0101111111#10 = .instr (.sched 63) := by decide
theorem test_decode_init : decodeSeq 0b0110000000#10 = .instr .init := by decide
theorem test_decode_round : decodeSeq 0b0111000000#10 = .instr (.round 0) ∧
    decodeSeq 0b0111111111#10 = .instr (.round 63) := by decide
theorem test_decode_accum : decodeSeq 0b1000000000#10 = .instr .accum := by decide
theorem test_decode_rest : decodeSeq 0x000#10 = .reject (.restSeq 0x000) ∧
    decodeSeq 0x240#10 = .reject (.restSeq 0x240) := by decide
theorem test_decode_reserved :
    decodeSeq 0x140 = .reject (.reservedSeq 0x140) ∧
    decodeSeq 0x14f = .reject (.reservedSeq 0x14f) ∧
    decodeSeq 0x110 = .reject (.reservedSeq 0x110) ∧
    decodeSeq 0x280 = .reject (.reservedSeq 0x280) ∧
    decodeSeq 0x3ff = .reject (.reservedSeq 0x3ff) ∧
    decodeSeq 0x241 = .reject (.reservedSeq 0x241) := ⟨rfl, rfl, rfl, rfl, rfl, rfl⟩

/-! ### Encoding -/

theorem test_encode : encode (.feed 0x61) = .command 0x261 ∧ encode .new = .command 0x100 ∧
    encode .finalize = .command 0x300 ∧ encode (.loadw 15) = .seq 0x10f ∧
    encode (.sched 16) = .seq 0x150 ∧ encode (.round 63) = .seq 0x1ff ∧
    encode .accum = .seq 0x200 := by decide

/-! ### Words as the opcode table numbers them -/

theorem test_tableWord_exact_widths :
    decodeTableWord 12 0x100 = some .new ∧ decodeTableWord 12 0x261 = some (.feed 0x61) ∧
    decodeTableWord 12 0x300 = some .finalize ∧ decodeTableWord 10 0x040 = some .padmark ∧
    decodeTableWord 10 0x080 = some .padfill ∧ decodeTableWord 10 0x0c0 = some .padlen ∧
    decodeTableWord 10 0x100 = some (.loadw 0) ∧ decodeTableWord 10 0x150 = some (.sched 16) ∧
    decodeTableWord 10 0x180 = some .init ∧ decodeTableWord 10 0x1c0 = some (.round 0) ∧
    decodeTableWord 10 0x200 = some .accum ∧ decodeTableWord 10 0x140 = none ∧
    decodeTableWord 12 0x101 = none := by decide

theorem test_tableWord_whole_bytes :
    decodeTableWord 16 0x100 = some .new ∧ decodeTableWord 16 0x101 = some (.loadw 1) ∧
    decodeTableWord 16 0x180 = some .init ∧ decodeTableWord 16 0x1000 = none := by decide

theorem test_withFetchWord_command :
    (nextOf (step (State.reset.withFetchWord 12 0x261))).map (fun t => t.BUF.read 0) =
      some (some 0x61) := by decide

theorem test_withFetchWord_uop :
    (nextOf (step (State.reset.withFetchWord 10 0x1c5))).map (fun t => (t.STAGE, t.T)) =
      some (Stage.round, 6) := by decide

/-! ### Words (section 3) -/

theorem test_rotr : rotr 0x80000001 2 = 0x60000000 ∧ rotr 0x12345678 7 = 0xf02468ac ∧
    rotr 0x12345678 25 = 0x1a2b3c09 := by decide
theorem test_sigma0 : sigma0 0x12345678 = 0xe7fce6ee ∧ sigma0 0xffffffff = 0x1fffffff := by decide
theorem test_sigma1 : sigma1 0x12345678 = 0xa1f78649 ∧ sigma1 0xffffffff = 0x003fffff := by decide
theorem test_bigSigma0 : bigSigma0 0x12345678 = 0x66146474 ∧ bigSigma0 1 = 0x40080400 := by decide
theorem test_bigSigma1 : bigSigma1 0x12345678 = 0x3561abda ∧ bigSigma1 1 = 0x04200080 := by decide
theorem test_ch : ch 0xf0f0f0f0 0xaaaaaaaa 0x55555555 = 0xa5a5a5a5 ∧
    ch 0x510e527f 0x9b05688c 0x1f83d9ab = 0x1f85c98c := by decide
theorem test_maj : maj 0xffffffff 0x12345678 0x9abcdef0 = 0x9abcdef8 ∧
    maj 0 0x12345678 0x9abcdef0 = 0x12345670 := by decide
theorem test_be32 : be32 0x61 0x62 0x63 0x80 = 0x61626380 ∧ be32 1 2 3 4 = 0x01020304 := by decide
theorem test_lengthField :
    be64Bytes (lengthField 1000000) = [0, 0, 0, 0, 0, 0x7a, 0x12, 0x00] ∧
    be64Bytes (lengthField 0x1fffffffffffffff) = [0xff, 0xff, 0xff, 0xff, 0xff, 0xff, 0xff, 0xf8] ∧
    lengthField 0x2000000000000000 = 0 := by decide

/-! ### Commands (section 8.1) -/

theorem test_new_in_idle :
    (nextOf (step (onPort { idle 5 69 with H := Vector.replicate 8 7 } 0x100))).map
      (fun t => (t.BUFLEN.val, t.TOTAL, t.H, t.STAGE, t.respOut)) =
      some (0, 0, config.H0, Stage.idle, some 0) := by decide

theorem test_new_in_final :
    (nextOf (step (onPort final 0x100))).map
      (fun t => (t.FIN, t.LAST, t.TOTAL, t.digestValid, t.STAGE)) =
      some (false, false, 0, false, Stage.idle) := by decide

theorem test_feed_63rd_byte :
    (nextOf (step (onPort (idle 62 62) 0x200))).map
      (fun t => (t.BUF.read 62, t.BUFLEN.val, t.TOTAL, t.STAGE, t.respOut)) =
      some (some 0x00, 63, 63, Stage.idle, some 0) := by decide

theorem test_feed_fills_block_and_count_wraps :
    (nextOf (step (onPort (idle 63 0xffffffffffffffff) 0x261))).map
      (fun t => (t.BUF.read 63, t.BUFLEN.val, t.TOTAL, t.STAGE, t.busy)) =
      some (some 0x61, 64, 0, Stage.loadw, true) := by decide

theorem test_feed_in_final_refused :
    (nextOf (step (onPort final 0x261))) = some { final with resp := some .usageError } := rfl

theorem test_finalize_in_idle :
    (nextOf (step (onPort (idle 3 3) 0x300))).map
      (fun t => (t.STAGE, t.FIN, t.BUFLEN.val, t.busy, t.respOut)) =
      some (Stage.padmark, true, 3, true, some 0) := by decide

theorem test_finalize_in_final_refused :
    (nextOf (step (onPort final 0x300))) = some { final with resp := some .usageError } := rfl

/-- Section 9, P4 rows 3 to 7: an illegal word in FINAL is ILLEGAL_COMMAND, not USAGE_ERROR. -/
theorem test_illegal_words_in_final :
    nextOf (step (onPort final 0x101)) = some { final with resp := some .illegalCommand } ∧
    nextOf (step (onPort final 0x400)) = some { final with resp := some .illegalCommand } :=
  ⟨rfl, rfl⟩

/-- Section 8.1, row 14: a word presented to a busy engine is not looked at. -/
theorem test_word_while_busy :
    (nextOf (step (onPort (inBlock Stage.round 10) 0x100))).map
      (fun t => (t.STAGE, t.T, t.respOut)) = some (Stage.round, 11, none) := by decide

/-- Section 9, P7: reset in the middle of a round. -/
theorem test_reset_while_busy :
    (nextOf (step (inReset (inBlock Stage.round 10)))) = some State.reset := rfl

/-! ### Padder (section 8.2) -/

theorem test_padmark_at_55 :
    (nextOf (exec .padmark (inPadding Stage.padmark 55 55))).map
      (fun t => (t.BUF.read 55, t.BUFLEN.val, t.STAGE, t.TOTAL)) =
      some (some 0x80, 56, Stage.padlen, 55) := by decide

theorem test_padmark_at_63 :
    (nextOf (exec .padmark (inPadding Stage.padmark 63 63))).map
      (fun t => (t.BUF.read 63, t.BUFLEN.val, t.STAGE)) =
      some (some 0x80, 64, Stage.loadw) := by decide

theorem test_padfill_at_57 :
    (nextOf (exec .padfill (inPadding Stage.padfill 57 56))).map
      (fun t => (t.BUF.read 57, t.BUFLEN.val, t.STAGE)) =
      some (some 0x00, 58, Stage.padfill) := by decide

theorem test_padfill_at_55 :
    (nextOf (exec .padfill (inPadding Stage.padfill 55 0))).map
      (fun t => (t.BUF.read 55, t.BUFLEN.val, t.STAGE)) =
      some (some 0x00, 56, Stage.padlen) := by decide

theorem test_padlen_wraps :
    (nextOf (exec .padlen (inPadding Stage.padlen 56 0x2000000000000003))).map
      (fun t => ((List.range 8).map fun j => t.BUF.read (56 + j), t.BUFLEN.val, t.LAST, t.STAGE)) =
      some ([some 0, some 0, some 0, some 0, some 0, some 0, some 0, some 0x18], 64, true,
        Stage.loadw) := by decide

theorem test_padlen_big_endian :
    (nextOf (exec .padlen (inPadding Stage.padlen 56 0x100000000))).map
      (fun t => (List.range 8).map fun j => t.BUF.read (56 + j)) =
      some [some 0, some 0, some 0, some 8, some 0, some 0, some 0, some 0] := by decide

/-! ### Scheduler (section 8.3) -/

theorem test_loadw_big_endian :
    (nextOf (exec (.loadw 7) { inBlock Stage.loadw 7 with
        BUF := [(28, 0xff), (29, 0xfe), (30, 0xfd), (31, 0xfc)] })).map
      (fun t => (wAt t.W 7, t.STAGE, t.T)) = some (0xfffefdfc, Stage.loadw, 8) := by decide

theorem test_loadw_last :
    (nextOf (exec (.loadw 15) { inBlock Stage.loadw 15 with
        BUF := [(60, 0x00), (61, 0x00), (62, 0x00), (63, 0x18)] })).map
      (fun t => (wAt t.W 15, t.STAGE, t.T)) = some (0x00000018, Stage.sched, 16) := by decide

theorem test_sched_sum_wraps :
    (nextOf (exec (.sched 16) { inBlock Stage.sched 16 with
        W := Vector.replicate 64 0xffffffff })).map
      (fun t => (wAt t.W 16, t.STAGE, t.T)) = some (0x203ffffc, Stage.sched, 17) := by decide

theorem test_sched_last :
    (nextOf (exec (.sched 63) { inBlock Stage.sched 63 with
        W := wSet (wSet (wSet (wSet (Vector.replicate 64 0) 47 0x065c43da) 48 0xfb3e89cb) 56
          0xef57b9cd) 61 0x668b2ff8 })).map
      (fun t => (wAt t.W 63, t.STAGE, t.T)) = some (0x12b1edeb, Stage.init, 0) := by decide

/-! ### Compression (section 8.4) -/

theorem test_init :
    (nextOf (exec .init (inBlock Stage.init 0))).map (fun t => (t.R, t.STAGE, t.T)) =
      some (#v[0x6a09e667, 0xbb67ae85, 0x3c6ef372, 0xa54ff53a, 0x510e527f, 0x9b05688c,
        0x1f83d9ab, 0x5be0cd19], Stage.round, 0) := by decide

/-- R150: row "4 to 7", column "+2" is `K[6]`; and the first and last of the table. -/
theorem test_round_constants :
    config.K[6] = 0x923f82a4 ∧ config.K[0] = 0x428a2f98 ∧ config.K[63] = 0xc67178f2 := by decide

theorem test_round_first :
    (nextOf (exec (.round 0) { inBlock Stage.round 0 with
        R := config.H0, W := wSet (Vector.replicate 64 0) 0 0x61626380 })).map
      (fun t => (t.R, t.STAGE, t.T)) =
      some (#v[0x5d6aebcd, 0x6a09e667, 0xbb67ae85, 0x3c6ef372, 0xfa2a4622, 0x510e527f,
        0x9b05688c, 0x1f83d9ab], Stage.round, 1) := by decide

theorem test_round_last :
    (nextOf (exec (.round 63) { inBlock Stage.round 63 with
        R := #v[0xd39a2165, 0x04d24d6c, 0xb85e2ce9, 0xb6ae8fff, 0xfb121210, 0x948d25b6,
          0x961f4894, 0xb21bad3d]
        W := wSet (Vector.replicate 64 0) 63 0x12b1edeb })).map
      (fun t => (t.R, t.STAGE, t.T)) =
      some (#v[0x506e3058, 0xd39a2165, 0x04d24d6c, 0xb85e2ce9, 0x5ef50f24, 0xfb121210,
        0x948d25b6, 0x961f4894], Stage.accum, 0) := by decide

/-! ### Accumulator (section 8.5) and digest -/

/-- The working registers after round 63 of the block of "abc" (section 6.3). -/
def abcRegs : Vector Word 8 :=
  #v[0x506e3058, 0xd39a2165, 0x04d24d6c, 0xb85e2ce9, 0x5ef50f24, 0xfb121210, 0x948d25b6, 0x961f4894]

theorem test_accum_last_block :
    (nextOf (exec .accum { mk Stage.accum 0 64 true true (filled 64 0) with R := abcRegs })).map
      (fun t => (t.digestOut, t.BUFLEN.val, t.STAGE, t.digestValid)) =
      some (0xba7816bf8f01cfea414140de5dae2223b00361a396177a9cb410ff61f20015ad, 0, Stage.final,
        true) := by decide

theorem test_accum_first_of_two_tail_blocks :
    (nextOf (exec .accum (mk Stage.accum 0 64 true false (filled 64 0)))).map
      (fun t => (t.BUFLEN.val, t.STAGE, t.FIN, t.LAST)) =
      some (0, Stage.padfill, true, false) := by decide

/-- R173: the hexadecimal rendering, low nibble after high. -/
theorem test_hexDigest : hexDigest [0xe3, 0xb0, 0xc4, 0x42] = "e3b0c442".toList := by decide

/-- Section 5: the padding of "abc". -/
theorem test_pad_abc :
    pad [0x61, 0x62, 0x63] = [0x61, 0x62, 0x63, 0x80] ++ List.replicate 52 0x00#8 ++
      [0, 0, 0, 0, 0, 0, 0, 0x18] := by decide

/-- Section 4: `z` for lengths 0, 55, 56, 63, 64. -/
theorem test_padZeros : [0, 54, 55, 56, 63, 64].map padZeros = [55, 1, 0, 63, 56, 55] := by decide

/-! ### Inputs that meet the hypotheses of the statements

One theorem for each statement with hypotheses; a statement with several clauses has a witness for
each clause at a boundary value. -/

theorem witness_DecodeAndEncodeAgree :
    (Instr.sched 16).wellFormed = true ∧ (Instr.sched 63).wellFormed = true ∧
    decode (.seq 0x1c0) = .instr (.round 0) ∧ decode (.command 0x2ff) = .instr (.feed 0xff) := by
  decide

theorem witness_ReservedSeqHasNoStep :
    (mk 0xA 0 0 false false []).sample.rst = false ∧
    0xA ≤ (mk 0xA 0 0 false false []).STAGE.toNat ∧ 0xA ≤ (mk 0xF 63 0 false false []).STAGE.toNat ∧
    (mk Stage.idle 1 0 false false []).T ≠ 0#6 ∧ (mk Stage.final 63 0 false false []).T ≠ 0#6 ∧
    16 ≤ (mk Stage.loadw 16 0 false false []).T.toNat ∧
    (mk Stage.sched 15 0 false false []).T.toNat < 16 ∧ (15#6).toNat < 16 := by decide

theorem witness_NewStartsEmptyMessage :
    (1#8 : Byte) ≠ 0 ∧ (0xff#8 : Byte) ≠ 0 ∧ (idle 63 63).STAGE = Stage.idle ∧
    final.STAGE = Stage.final := by decide

theorem witness_FeedAppendsByte :
    (idle 0 0).STAGE = Stage.idle ∧ (idle 0 0).BUFLEN.val < 64 ∧ (idle 63 63).STAGE = Stage.idle ∧
    (idle 63 63).BUFLEN.val + 1 = 64 ∧ (idle 62 62).BUFLEN.val + 1 ≠ 64 ∧
    final.STAGE = Stage.final := by decide

theorem witness_FinalizeStartsPadding :
    (1#8 : Byte) ≠ 0 ∧ (idle 0 0).STAGE = Stage.idle ∧ final.STAGE = Stage.final := by decide

theorem witness_BusyEngineHoldsCommand :
    (inPadding Stage.padmark 0 0).busy = true ∧ (inBlock Stage.accum 0).busy = true := by decide

theorem witness_FullBufferStopsAppend :
    (mk Stage.idle 0 64 false false (filled 64 0)).BUFLEN.val = 64 ∧
    (mk Stage.idle 0 64 false false (filled 64 0)).STAGE = Stage.idle ∧
    faultOf (exec (.feed 1) (mk Stage.idle 0 64 false false (filled 64 0))) =
      some .bufIndexOutOfRange := by decide

theorem witness_PaddingBytesAppended :
    (inPadding Stage.padmark 0 0).BUFLEN.val < 64 ∧
    (inPadding Stage.padmark 55 0).BUFLEN.val + 1 = 56 ∧
    (inPadding Stage.padfill 63 0).BUFLEN.val + 1 = 64 := by decide

theorem witness_LoadwLoadsBigEndianWord :
    (filled 64 7).read (4 * (0#4).toNat) = some 7 ∧
    (filled 64 7).read (4 * (0#4).toNat + 3) = some 7 ∧
    (filled 64 7).read (4 * (15#4).toNat) = some 7 ∧
    (filled 64 7).read (4 * (15#4).toNat + 1) = some 7 ∧
    (filled 64 7).read (4 * (15#4).toNat + 2) = some 7 ∧
    (filled 64 7).read (4 * (15#4).toNat + 3) = some 7 := by decide

theorem witness_LoadwStopsOnUnwrittenByte :
    (∃ i < 4, (filled 63 7).read (4 * (15#4).toNat + i) = none) ∧
    (∃ i < 4, State.reset.BUF.read (4 * (0#4).toNat + i) = none) ∧
    faultOf (exec (.loadw 15) { inBlock Stage.loadw 15 with BUF := filled 63 7 }) =
      some .bufUnwritten := by decide

theorem witness_SchedComputesWord : 0 < 48 ∧ 47 < 48 ∧ 47 + 16 = 63 := by decide

theorem witness_RoundMixes : 0 < 64 ∧ 63 < 64 := by decide

theorem witness_MixingFunctionsBitwise : (0 : Nat) < 32 ∧ (31 : Nat) < 32 := by decide

theorem witness_ChooseAndMajority : (0 : Nat) < 32 ∧ (31 : Nat) < 32 := by decide

theorem witness_StepRunsDecodedInstruction :
    (onPort (idle 0 0) 0x261).sample.rst = false ∧ (onPort (idle 0 0) 0x261).STAGE = Stage.idle ∧
    (onPort (idle 0 0) 0x261).T = 0#6 ∧ (onPort (idle 0 0) 0x261).sample.cmd = some 0x261 ∧
    decodeCommand 0x261 = .instr (.feed 0x61) ∧ (onPort final 0x100).STAGE = Stage.final ∧
    (inBlock Stage.round 63).sample.rst = false ∧
    decodeSeq (inBlock Stage.round 63).seq = .instr (.round 63) ∧ final.sample.cmd = none := by
  decide

theorem witness_RefusedWordsLeaveNoTrace :
    (onPort final 0x261).sample = { rst := false, cmd := some 0x261 } ∧
    (onPort final 0x261).T = 0#6 ∧ (onPort final 0x261).STAGE = Stage.final ∧
    (0x261#12 &&& 0xF00 = 0x200) ∧
    (onPort (idle 0 0) 0xfff).sample = { rst := false, cmd := some 0xfff } ∧
    (0xfff#12 ≠ 0x100 ∧ 0xfff#12 &&& 0xF00 ≠ 0x200 ∧ 0xfff#12 ≠ 0x300) := by decide

theorem witness_IllegalBeforeUsageError :
    (nextOf (step (onPort final 0x1ff))).map State.respOut = some (some 2) ∧
    (nextOf (step (onPort final 0x300))).map State.respOut = some (some 1) ∧
    (nextOf (step (onPort (idle 0 0) 0x300))).map State.respOut = some (some 0) ∧
    (inReset final).sample.rst = true := by decide

theorem witness_BusyEngineIgnoresPort :
    (inBlock Stage.round 10).busy = true ∧
    (nextOf (step { inBlock Stage.round 10 with
      inputs := { rst := false, cmd := some 0x100 } :: [] })).isSome = true := by decide

theorem witness_ResetAbandonsEveryStage :
    (inReset (inBlock Stage.round 10)).sample.rst = true ∧
    (inReset (mk 0xF 63 64 true false [])).sample.rst = true := by decide

/-- A state with the invariant in every stage of R34. -/
def stages : List State :=
  [idle 63 63, inPadding Stage.padmark 63 63, inPadding Stage.padfill 63 0,
    inPadding Stage.padlen 56 0, inBlock Stage.loadw 15, inBlock Stage.sched 63,
    inBlock Stage.init 0, inBlock Stage.round 63, inBlock Stage.accum 0, final]

theorem witness_StepKeepsInvariant :
    ∀ s ∈ stages, s.Inv ∧ (nextOf (step s)).isSome = true := by decide +kernel

theorem witness_InvariantStatesNeverStop : ∀ s ∈ stages, s.Inv :=
  fun s h => (witness_StepKeepsInvariant s h).1

theorem witness_SequencerFollowsTransitionTable_stages :
    (∀ s ∈ stages, s.Inv ∧ (nextOf (step s)).isSome = true) ∧
    (∀ s ∈ stages, s.sample.rst = false) ∧
    stages.map State.STAGE = [Stage.idle, Stage.padmark, Stage.padfill, Stage.padlen, Stage.loadw,
      Stage.sched, Stage.init, Stage.round, Stage.accum, Stage.final] :=
  ⟨witness_StepKeepsInvariant, by decide, rfl⟩

theorem witness_SequencerFollowsTransitionTable_commands :
    (onPort (idle 63 63) (0x2#4 ++ 7#8)).Inv ∧ (onPort (idle 63 63) 0x300).Inv ∧
    (onPort final 0x100).Inv ∧ (inReset final).Inv := by
  have h1 : (idle 63 63).Inv := witness_InvariantStatesNeverStop _ (by simp [stages])
  have h2 : final.Inv := witness_InvariantStatesNeverStop _ (by simp [stages])
  exact ⟨h1, h1, h2, h2⟩

/-- One witness for each case of the chain: reset, NEW in FINAL, ACCUM, FEED in IDLE. -/
theorem witness_OnlyResetNewAccumWriteH :
    ((nextOf (step (inReset final))).isSome = true ∧ (inReset final).sample.rst = true) ∧
    ((nextOf (step (onPort final 0x100))).isSome = true ∧
      (onPort final 0x100).sample = { rst := false, cmd := some 0x100 } ∧
      (onPort final 0x100).STAGE = Stage.final) ∧
    ((nextOf (step (inBlock Stage.accum 0))).isSome = true ∧
      (inBlock Stage.accum 0).sample.rst = false ∧
      (inBlock Stage.accum 0).STAGE = Stage.accum) ∧
    (nextOf (step (onPort (idle 0 0) 0x261))).isSome = true ∧
    (onPort (idle 0 0) 0x261).sample = { rst := false, cmd := some 0x261 } ∧
    (onPort (idle 0 0) 0x261).STAGE = Stage.idle := by decide

theorem witness_TotalCountsFedBytes :
    (nextOf (step (onPort (idle 0 0) (0x2#4 ++ 7#8)))).isSome = true ∧
    (onPort (idle 0 0) (0x2#4 ++ 7#8)).STAGE = Stage.idle ∧
    (onPort (idle 0 0) (0x2#4 ++ 7#8)).sample = { rst := false, cmd := some (0x2#4 ++ 7#8) } ∧
    (onPort final 0x100).busy = false ∧ (inBlock Stage.accum 0).busy = true ∧
    final.sample.cmd ≠ some 0x100 ∧ (inReset final).sample.rst = true := by decide

/-- A state that holds a digest, whose host goes on sending FEED, FINALIZE and an illegal word. -/
def finalPestered : State :=
  { final with inputs := [{ rst := false, cmd := some 0x261 }, { rst := false, cmd := some 0x300 },
      { rst := false, cmd := some 0x000 }] }

theorem witness_DigestStaysUntilNewOrReset :
    finalPestered.STAGE = Stage.final ∧ finalPestered.T = 0#6 ∧
    ∀ p ∈ finalPestered.inputs.take 5, p.rst = false ∧ p.cmd ≠ some 0x100 := by decide

/-- The state after reset with other content in `R`, `W` and `BUF`. -/
def resetWithOtherContent : State :=
  { State.reset with
    R := Vector.replicate 8 0xdeadbeef, W := Vector.replicate 64 0xcafebabe, BUF := filled 64 0x5a }

theorem witness_DeadContentNeverObserved :
    State.reset.Inv ∧ resetWithOtherContent.Inv ∧ State.reset.LiveEq resetWithOtherContent := by
  refine ⟨by decide +kernel, by decide +kernel, rfl, rfl, rfl, rfl, rfl, rfl, rfl, rfl, rfl, ?_, ?_,
    ?_, ?_, ?_⟩
  · intro j hj; exact absurd hj (Nat.not_lt_zero j)
  · rintro (h | h) <;> exact absurd h (by decide)
  · intro h; exact absurd h (by decide)
  · intro h; exact absurd h (by decide)
  · intro h; exact absurd h (by decide)

/-- The block of 64 bytes 0x61. -/
def aBlock : Block := Vector.replicate 64 0x61

theorem filled_holds (s : State) (h : s.BUF = filled 64 0x61) : s.HoldsBlock aBlock := by
  intro j; rw [h]; revert j; decide +kernel

theorem noReset_of_nil (s : State) (n : Nat) (h : s.inputs = []) : s.NoReset n := by
  intro p hp; simp [h] at hp

theorem witness_LoadAndSchedBuildSchedule :
    (inBlock Stage.loadw 0).STAGE = Stage.loadw ∧ (inBlock Stage.loadw 0).T = 0#6 ∧
    (inBlock Stage.loadw 0).HoldsBlock aBlock ∧ (inBlock Stage.loadw 0).NoReset 64 :=
  ⟨rfl, rfl, filled_holds _ rfl, noReset_of_nil _ _ rfl⟩

theorem witness_RoundsComputeCompress :
    (inBlock Stage.init 0).STAGE = Stage.init ∧ (inBlock Stage.init 0).T = 0#6 ∧
    (inBlock Stage.init 0).NoReset 65 := ⟨rfl, rfl, noReset_of_nil _ _ rfl⟩

theorem witness_BlockRoutineCompressesBlock :
    (inBlock Stage.loadw 0).STAGE = Stage.loadw ∧ (inBlock Stage.loadw 0).T = 0#6 ∧
    (inBlock Stage.loadw 0).BUFLEN.val = 64 ∧ (inBlock Stage.loadw 0).HoldsBlock aBlock ∧
    (inBlock Stage.loadw 0).NoReset 130 :=
  ⟨rfl, rfl, rfl, filled_holds _ rfl, noReset_of_nil _ _ rfl⟩

theorem witness_FeedRunsToRest_below_63 :
    (onPort (idle 62 62) (0x2#4 ++ 7#8)).Inv ∧
    (onPort (idle 62 62) (0x2#4 ++ 7#8)).STAGE = Stage.idle ∧
    (onPort (idle 62 62) (0x2#4 ++ 7#8)).sample = { rst := false, cmd := some (0x2#4 ++ 7#8) } ∧
    (onPort (idle 62 62) (0x2#4 ++ 7#8)).BUFLEN.val < 63 := by decide +kernel

theorem witness_FeedRunsToRest_at_63 :
    (onPort (idle 63 63) (0x2#4 ++ 0x61#8)).Inv ∧
    (onPort (idle 63 63) (0x2#4 ++ 0x61#8)).STAGE = Stage.idle ∧
    (onPort (idle 63 63) (0x2#4 ++ 0x61#8)).sample =
      { rst := false, cmd := some (0x2#4 ++ 0x61#8) } ∧
    (onPort (idle 63 63) (0x2#4 ++ 0x61#8)).BUFLEN.val = 63 ∧
    (onPort (idle 63 63) (0x2#4 ++ 0x61#8)).NoReset 131 ∧
    (∀ j (_ : j < 63), (onPort (idle 63 63) (0x2#4 ++ 0x61#8)).BUF.read j = some aBlock[j]) ∧
    aBlock[63] = 0x61#8 := by
  refine ⟨by decide +kernel, rfl, rfl, rfl, ?_, by decide +kernel, rfl⟩
  intro p hp
  have := List.mem_of_mem_take hp
  simp [onPort] at this
  rw [this]

/-- An engine after reset that has been fed `n` bytes 0x61 and now gets FINALIZE. -/
def finalizing (n : Fin 65) : State := onPort (idle n (BitVec.ofNat 64 n.val)) 0x300

theorem finalizing_noReset (n : Fin 65) (k : Nat) : (finalizing n).NoReset k := by
  intro p hp
  have := List.mem_of_mem_take hp
  simp [finalizing, onPort] at this
  rw [this]

theorem witness_FinalizeRunsToRest_one_block :
    (finalizing 55).Inv ∧ (finalizing 55).STAGE = Stage.idle ∧
    (finalizing 55).sample = { rst := false, cmd := some 0x300 } ∧
    (List.replicate 55 (0x61#8)).length = (finalizing 55).BUFLEN.val ∧
    (∀ j < (List.replicate 55 (0x61#8)).length,
      (finalizing 55).BUF.read j = (List.replicate 55 (0x61#8))[j]?) ∧
    (∀ n, (finalizing 55).NoReset n) ∧ (finalizing 55).HoldsMessage (List.replicate 55 0x61) := by
  refine ⟨by decide +kernel, rfl, rfl, rfl, by decide +kernel, finalizing_noReset 55, rfl, rfl, rfl,
    rfl, rfl, rfl, rfl, by decide +kernel⟩

theorem witness_FinalizeRunsToRest_two_blocks :
    (finalizing 56).Inv ∧ (finalizing 56).STAGE = Stage.idle ∧
    (finalizing 56).sample = { rst := false, cmd := some 0x300 } ∧
    (List.replicate 56 (0x61#8)).length = (finalizing 56).BUFLEN.val ∧
    (∀ j < (List.replicate 56 (0x61#8)).length,
      (finalizing 56).BUF.read j = (List.replicate 56 (0x61#8))[j]?) ∧
    (∀ n, (finalizing 56).NoReset n) := by
  refine ⟨by decide +kernel, rfl, rfl, rfl, by decide +kernel, finalizing_noReset 56⟩

theorem witness_FedMessageIsHeld :
    final.T = 0#6 ∧ final.STAGE = Stage.final ∧ (idle 63 63).T = 0#6 ∧
    (idle 63 63).STAGE = Stage.idle ∧ (idle 63 63).HoldsMessage (List.replicate 63 0x61) := by
  refine ⟨rfl, rfl, rfl, rfl, rfl, rfl, rfl, rfl, rfl, rfl, rfl, by decide +kernel⟩

theorem witness_HashProgramComputesHash :
    State.reset.T = 0#6 ∧ State.reset.STAGE = Stage.idle ∧ final.T = 0#6 ∧
    final.STAGE = Stage.final := by decide

theorem witness_ChunksAndPausesDoNotMatter :
    (idle 5 5).T = 0#6 ∧ (idle 5 5).STAGE = Stage.idle ∧ final.STAGE = Stage.final := by decide

theorem witness_BusyPeriodsAreBounded :
    (inPadding Stage.padmark 56 56).Inv ∧ (inPadding Stage.padmark 56 56).busy = true ∧
    (inPadding Stage.padmark 56 56).NoReset 325 :=
  ⟨by decide +kernel, rfl, noReset_of_nil _ _ rfl⟩

theorem witness_BlocksCoverPaddedMessage :
    (List.replicate 64 (0#8)).length % 64 = 0 ∧ ([] : List Byte).length % 64 = 0 := by decide

theorem witness_TablesAreRootsOfPrimes :
    (2 : Nat).Prime ∧ Nat.count Nat.Prime 2 = 0 ∧ (19 : Nat).Prime ∧ Nat.count Nat.Prime 19 = 7 := by
  decide +kernel

theorem witness_PadlenWritesBitLength :
    (0 : Nat) < 8 ∧ (7 : Nat) < 8 ∧ (55 < 56 ∨ 63 < 55) ∧ (64 < 56 ∨ 63 < 64) := by decide

theorem witness_ScheduleRecurrence : (0 : Nat) < 16 ∧ (15 : Nat) < 16 ∧ (0 : Nat) < 48 ∧
    (47 : Nat) < 48 := by decide

theorem witness_CompressionRounds : (0 : Nat) < 64 ∧ (63 : Nat) < 64 := by decide

theorem witness_PadAppendsMarkZerosLength :
    (62 : Nat) < padZeros 56 ∧ (56 + 1 + 62) % 64 ≠ 56 := by decide

theorem witness_PaddingSizes : padZeros 55 = 0 ∧ padZeros 56 = 63 ∧ 62 < padZeros 56 := by decide

theorem witness_DigestBytesOnPort : (0 : Nat) < 32 ∧ (31 : Nat) < 32 := by decide

theorem witness_DigestInHexadecimal : (0 : Nat) < 64 ∧ (63 : Nat) < 64 := by decide

end Sys2Proof.Tests
end

section
/-! What each step that answers a next state has done: one relation with a constructor for each kind
of step, and the inversion lemma that ties it to `step`. -/

namespace Sys2Proof.Machine

/-! ### The words of the command port -/

theorem decodeCommand_newWord : decodeCommand newWord = .instr .new := rfl

theorem decodeCommand_finalizeWord : decodeCommand finalizeWord = .instr .finalize := rfl

theorem decodeCommand_feedWord (b : Byte) : decodeCommand (feedWord b) = .instr (.feed b) := by
  simp [decodeCommand, feedWord]

/-- The three legal command words, each with its instruction. -/
theorem word_of_decodeCommand {w : CmdWord} {i : Instr} (h : decodeCommand w = .instr i) :
    (i = .new ∧ w = newWord) ∨ (∃ b, i = .feed b ∧ w = feedWord b) ∨
    (i = .finalize ∧ w = finalizeWord) := by
  have hw := cmdWord_eq w
  obtain ⟨hi, ho, hd⟩ | ⟨hi, ho⟩ | ⟨hi, ho, hd⟩ := decodeCommand_cases h
  · exact .inl ⟨hi, by rw [hw, ho, hd]; rfl⟩
  · exact .inr (.inl ⟨cmdData w, hi, by rw [hw, ho, cmdData_append]; rfl⟩)
  · exact .inr (.inr ⟨hi, by rw [hw, ho, hd]; rfl⟩)

theorem feedWord_ne_newWord (b : Byte) : feedWord b ≠ newWord := fun h => by
  simpa [decodeCommand_feedWord, decodeCommand_newWord] using congrArg decodeCommand h

theorem feedWord_ne_finalizeWord (b : Byte) : feedWord b ≠ finalizeWord := fun h => by
  simpa [decodeCommand_feedWord, decodeCommand_finalizeWord] using congrArg decodeCommand h

theorem finalizeWord_ne_newWord : finalizeWord ≠ newWord := by decide

/-! ### The relation -/

/-- `StepTo s t`: the kinds of step an engine in `s` can take, and the state `t` each leads to. -/
inductive StepTo (s : State) : State → Prop
  /-- Reset is asserted (R210). -/
  | reset (hr : s.sample.rst = true) : StepTo s { State.reset with inputs := s.inputs.tail }
  /-- NEW is accepted (R91). -/
  | new (hr : s.sample.rst = false) (hg : s.STAGE = Stage.idle ∨ s.STAGE = Stage.final)
      (ht : s.T = 0#6) (hc : s.sample.cmd = some newWord) : StepTo s (s.tick.restart.respond .ok)
  /-- FEED is accepted (R92). -/
  | feed (b : Byte) (hr : s.sample.rst = false) (hg : s.STAGE = Stage.idle)
      (ht : s.T = 0#6) (hc : s.sample.cmd = some (feedWord b)) (hl : s.BUFLEN.val < 64) :
      StepTo s
        { s.tick with
          BUF := s.BUF.write s.BUFLEN.val b
          BUFLEN := ⟨s.BUFLEN.val + 1, by omega⟩
          TOTAL := s.TOTAL + 1
          STAGE := if s.BUFLEN.val + 1 = 64 then Stage.loadw else Stage.idle
          T := 0#6
          resp := some .ok }
  /-- FINALIZE is accepted (R93). -/
  | finalize (hr : s.sample.rst = false) (hg : s.STAGE = Stage.idle)
      (ht : s.T = 0#6) (hc : s.sample.cmd = some finalizeWord) :
      StepTo s { s.tick with FIN := true, STAGE := Stage.padmark, T := 0#6, resp := some .ok }
  /-- An engine at rest waits, or refuses the word it is given (R187 to R189, R201). -/
  | stay (r : Option Response) (hr : s.sample.rst = false) (hrest : s.atRest = true)
      (hnew : s.sample.cmd ≠ some newWord)
      (hidle : s.STAGE = Stage.idle →
        s.sample.cmd ≠ some finalizeWord ∧ ∀ b, s.sample.cmd ≠ some (feedWord b)) :
      StepTo s { s.tick with resp := r }
  /-- PADMARK or PADFILL (R115, R116, R118). -/
  | pad (b : Byte) (hr : s.sample.rst = false)
      (hg : s.STAGE = Stage.padmark ∧ b = 0x80#8 ∨ s.STAGE = Stage.padfill ∧ b = 0x00#8)
      (ht : s.T = 0#6) (hl : s.BUFLEN.val < 64) :
      StepTo s
        { s.tick with
          BUF := s.BUF.write s.BUFLEN.val b
          BUFLEN := ⟨s.BUFLEN.val + 1, by omega⟩
          STAGE := if s.BUFLEN.val + 1 = 64 then Stage.loadw
            else if s.BUFLEN.val + 1 = 56 then Stage.padlen else Stage.padfill
          T := 0#6 }
  /-- PADLEN (R117). -/
  | padlen (hr : s.sample.rst = false) (hg : s.STAGE = Stage.padlen) (ht : s.T = 0#6) :
      StepTo s
        { s.tick with
          BUF := s.BUF.writeAll 56 (be64Bytes (lengthField s.TOTAL))
          BUFLEN := 64
          LAST := true
          STAGE := Stage.loadw
          T := 0#6 }
  /-- LOADW (R134). -/
  | loadw (v : Word) (hr : s.sample.rst = false) (hg : s.STAGE = Stage.loadw)
      (ht : s.T.toNat < 16) (hv : s.BUF.read32 (4 * s.T.toNat) = .ok v) :
      StepTo s
        { s.tick with
          W := wSet s.W s.T v
          STAGE := if s.T = 15#6 then Stage.sched else Stage.loadw
          T := s.T + 1#6 }
  /-- SCHED (R135). -/
  | sched (hr : s.sample.rst = false) (hg : s.STAGE = Stage.sched) (ht : 16 ≤ s.T.toNat) :
      StepTo s
        { s.tick with
          W := wSet s.W s.T (scheduleWord s.W s.T)
          STAGE := if s.T = 63#6 then Stage.init else Stage.sched
          T := s.T + 1#6 }
  /-- INIT (R155). -/
  | init (hr : s.sample.rst = false) (hg : s.STAGE = Stage.init) (ht : s.T = 0#6) :
      StepTo s { s.tick with R := s.H, STAGE := Stage.round, T := 0#6 }
  /-- ROUND (R156). -/
  | round (hr : s.sample.rst = false) (hg : s.STAGE = Stage.round) :
      StepTo s
        { s.tick with
          R := roundRegs s.R (kAt s.T) (wAt s.W s.T)
          STAGE := if s.T = 63#6 then Stage.accum else Stage.round
          T := s.T + 1#6 }
  /-- ACCUM (R171). -/
  | accum (hr : s.sample.rst = false) (hg : s.STAGE = Stage.accum) (ht : s.T = 0#6) :
      StepTo s
        { s.tick with
          H := accumulate s.H s.R
          BUFLEN := 0
          STAGE := if s.LAST then Stage.final else if s.FIN then Stage.padfill else Stage.idle
          T := 0#6 }

/-! ### What the commands do at rest -/

theorem execNew_of_rest {s : State} (h : s.STAGE = Stage.idle ∨ s.STAGE = Stage.final) :
    execNew s = .next (s.restart.respond .ok) := if_pos h

theorem execFeed_of_final {s : State} (b : Byte) (h : s.STAGE = Stage.final) :
    execFeed b s = .next (s.raise .usageError) := if_pos h

theorem execFinalize_of_final {s : State} (h : s.STAGE = Stage.final) :
    execFinalize s = .next (s.raise .usageError) := if_pos h

theorem execFinalize_of_idle {s : State} (h : s.STAGE = Stage.idle) :
    execFinalize s =
      .next { s with FIN := true, STAGE := Stage.padmark, T := 0#6, resp := some .ok } := by
  simp only [execFinalize, h, Stage.idle, Stage.final, if_true]
  rfl

theorem execFeed_of_lt {s : State} (b : Byte) (h : s.STAGE = Stage.idle)
    (hl : s.BUFLEN.val < 64) :
    execFeed b s = .next
      { s with
        BUF := s.BUF.write s.BUFLEN.val b
        BUFLEN := ⟨s.BUFLEN.val + 1, by omega⟩
        TOTAL := s.TOTAL + 1
        STAGE := if s.BUFLEN.val + 1 = 64 then Stage.loadw else Stage.idle
        T := 0#6
        resp := some .ok } := by
  simp only [execFeed, h, State.append_of_lt b hl]
  rfl

theorem execFeed_of_full {s : State} (b : Byte) (h : s.STAGE = Stage.idle)
    (hl : s.BUFLEN.val = 64) : execFeed b s = .fault .bufIndexOutOfRange := by
  simp [execFeed, h, State.append_of_full b hl]

/-! ### The inversion lemma -/

/-- A step that runs an accepted command. -/
theorem stepTo_of_command {s t : State} {w : CmdWord} {i : Instr} (hr : s.sample.rst = false)
    (hrest : s.atRest = true) (hc : s.sample.cmd = some w) (hd : decodeCommand w = .instr i)
    (h : exec i s.tick = .next t) : StepTo s t := by
  obtain ⟨hg, ht⟩ := s.atRest_iff.1 hrest
  obtain ⟨rfl, rfl⟩ | ⟨b, rfl, rfl⟩ | ⟨rfl, rfl⟩ := word_of_decodeCommand hd
  · rw [show exec .new s.tick = _ from execNew_of_rest hg] at h
    cases h
    exact .new hr hg ht hc
  · replace h : execFeed b s.tick = .next t := h
    rcases hg with hg | hg
    · by_cases hl : s.BUFLEN.val < 64
      · rw [execFeed_of_lt (s := s.tick) b hg hl] at h
        cases h
        exact .feed b hr hg ht hc hl
      · rw [execFeed_of_full (s := s.tick) b hg (by simp; omega)] at h
        cases h
    · rw [execFeed_of_final (s := s.tick) b hg] at h
      cases h
      exact .stay (some .usageError) hr hrest (by simp [hc, feedWord_ne_newWord])
        fun hi => by simp [hi] at hg
  · replace h : execFinalize s.tick = .next t := h
    rcases hg with hg | hg
    · rw [execFinalize_of_idle (s := s.tick) hg] at h
      cases h
      exact .finalize hr hg ht hc
    · rw [execFinalize_of_final (s := s.tick) hg] at h
      cases h
      exact .stay (some .usageError) hr hrest (by simp [hc, finalizeWord_ne_newWord])
        fun hi => by simp [hi] at hg

/-- The index of LOADW is the number that `T` holds. -/
theorem toNat_extractLsb'_of_lt {t : BitVec 6} (h : t.toNat < 16) :
    (t.extractLsb' 0 4).toNat = t.toNat := by
  simp
  omega

/-- The index of LOADW, widened again, is `T`. -/
theorem setWidth_extractLsb'_of_lt {t : BitVec 6} (h : t.toNat < 16) :
    (t.extractLsb' 0 4).setWidth 6 = t := by
  apply BitVec.eq_of_toNat_eq
  rw [BitVec.toNat_setWidth, toNat_extractLsb'_of_lt h]
  omega

/-- The last index of LOADW, seen in `T`. -/
theorem extractLsb'_eq_fifteen_iff {t : BitVec 6} (h : t.toNat < 16) :
    t.extractLsb' 0 4 = 15#4 ↔ t = 15#6 := by
  rw [← BitVec.toNat_inj, toNat_extractLsb'_of_lt h, ← BitVec.toNat_inj]
  rfl

/-- A step that runs a micro-operation. -/
theorem stepTo_of_uop {s t : State} {i : Instr} (hr : s.sample.rst = false)
    (hd : decodeSeq s.seq = .instr i) (h : exec i s.tick = .next t) : StepTo s t := by
  have hcases := decodeSeq_cases hd
  simp only [seqStage_seq, seqT_seq] at hcases
  obtain ⟨rfl, hg, ht⟩ | ⟨rfl, hg, ht⟩ | ⟨rfl, hg, ht⟩ | ⟨rfl, hg, ht⟩ | ⟨rfl, hg, ht⟩ |
    ⟨rfl, hg, ht⟩ | ⟨rfl, hg⟩ | ⟨rfl, hg, ht⟩ := hcases
  · obtain ⟨hl, rfl⟩ := padByte_next h
    exact .pad 0x80#8 hr (.inl ⟨hg, rfl⟩) ht hl
  · obtain ⟨hl, rfl⟩ := padByte_next h
    exact .pad 0x00#8 hr (.inr ⟨hg, rfl⟩) ht hl
  · cases h
    exact .padlen hr hg ht
  · obtain ⟨v, hv, rfl⟩ := execLoadw_next h
    rw [toNat_extractLsb'_of_lt ht] at hv
    simp only [setWidth_extractLsb'_of_lt ht, extractLsb'_eq_fifteen_iff ht]
    exact .loadw v hr hg ht hv
  · obtain ⟨-, rfl⟩ := execSched_next h
    exact .sched hr hg ht
  · cases h
    exact .init hr hg ht
  · rw [show exec (.round s.T) s.tick = _ from execRound_eq _ _] at h
    cases h
    exact .round hr hg
  · rw [show exec .accum s.tick = _ from execAccum_eq _] at h
    cases h
    exact .accum hr hg ht

/-- Every step that answers a next state is of one of the kinds. -/
theorem stepTo_of_step {s t : State} (h : step s = .next t) : StepTo s t := by
  obtain ⟨hr, hs⟩ | ⟨hr, hrest, hc, hs⟩ | ⟨w, i, hr, hrest, hc, hd, hs⟩ |
    ⟨w, e, hr, hrest, hc, hd, hs⟩ | ⟨i, hr, -, hd, hs⟩ | ⟨e, -, -, -, hs⟩ := step_cases s
  all_goals rw [hs] at h
  · cases h
    exact .reset hr
  · cases h
    exact .stay none hr hrest (by simp [hc]) (by simp [hc])
  · exact stepTo_of_command hr hrest hc hd h
  · have illegal {w' : CmdWord} {i : Instr} (hw : decodeCommand w' = .instr i) :
        s.sample.cmd ≠ some w' := by
      rintro hc'
      obtain rfl : w = w' := by simpa [hc] using hc'
      simp [hw] at hd
    cases h
    exact .stay (some .illegalCommand) hr hrest (illegal decodeCommand_newWord)
      fun _ => ⟨illegal decodeCommand_finalizeWord, fun b => illegal (decodeCommand_feedWord b)⟩
  · exact stepTo_of_uop hr hd h
  · cases h

end Sys2Proof.Machine
end

section
/-! The invariant of R37: reset meets it, every step keeps it, and no step from it stops. -/

namespace Sys2Proof.Machine

/-- Settles O27: the state after reset is IDLE with an empty buffer. -/
theorem resetMeetsInvariant : Obligations.ResetMeetsInvariant := by
  unfold Obligations.ResetMeetsInvariant
  decide

/-- A byte appended to a filled buffer leaves it filled. -/
theorem Memory.isSome_read_write_of_filled {m : Memory} {n : Nat} (b : Byte)
    (h : ∀ j < n, (m.read j).isSome = true) :
    ∀ j < n + 1, ((m.write n b).read j).isSome = true := by
  intro j hj
  rw [Memory.read_write]
  split
  · rfl
  · exact h j (by omega)

/-- The eight length bytes complete a buffer of 56 bytes. -/
theorem Memory.isSome_read_writeAll_length {m : Memory} (v : BitVec 64)
    (h : ∀ j < 56, (m.read j).isSome = true) :
    ∀ j < 64, ((m.writeAll 56 (be64Bytes v)).read j).isSome = true := by
  intro j hj
  rw [Memory.read_writeAll]
  split
  · next hk =>
    rw [List.getElem?_eq_getElem (by simp only [be64Bytes, List.length] at hk ⊢; omega)]
    rfl
  · next hk =>
    exact h j (by simp only [be64Bytes, List.length] at hk; omega)

/-- The byte counter after one more byte (R26). -/
theorem toNat_add_one (n : BitVec 64) : (n + 1).toNat = (n.toNat + 1) % 2 ^ 64 := rfl

/-! ### The invariant, stage by stage -/

theorem State.inv_of_idle {s : State} (hg : s.STAGE = Stage.idle) (ht : s.T = 0#6)
    (hn : s.BUFLEN.val ≤ 63) (hfin : s.FIN = false) (hlast : s.LAST = false)
    (hcount : s.BUFLEN.val = s.TOTAL.toNat % 64) (hwf : s.BUF.wf) (hw : s.Filled) : s.Inv := by
  refine ⟨?_, ?_, ?_, fun _ => by omega, hwf, hw⟩
  · simp [State.SeqLegal, hg, ht]
  · simp [State.FillLegal, State.InBlock, hg, hn]
  · simp [State.FlagsLegal, hg, hfin, hlast]

theorem State.inv_of_padding {s : State}
    (hg : s.STAGE = Stage.padmark ∧ s.BUFLEN.val ≤ 63 ∨
      s.STAGE = Stage.padfill ∧ s.BUFLEN.val ≤ 63 ∧ s.BUFLEN.val ≠ 56 ∨
      s.STAGE = Stage.padlen ∧ s.BUFLEN.val = 56) (ht : s.T = 0#6)
    (hfin : s.FIN = true) (hlast : s.LAST = false) (hwf : s.BUF.wf) (hw : s.Filled) : s.Inv := by
  refine ⟨?_, ?_, ?_, by simp [hfin], hwf, hw⟩
  · obtain ⟨hg, -⟩ | ⟨hg, -⟩ | ⟨hg, -⟩ := hg <;> simp [State.SeqLegal, hg, ht]
  · obtain ⟨hg, hn⟩ | ⟨hg, hn⟩ | ⟨hg, hn⟩ := hg <;> simp [State.FillLegal, State.InBlock, hg, hn]
  · obtain ⟨hg, -⟩ | ⟨hg, -⟩ | ⟨hg, -⟩ := hg <;> simp [State.FlagsLegal, hg, hfin, hlast]

theorem State.inv_of_block {s : State}
    (hg : s.STAGE = Stage.loadw ∧ s.T.toNat < 16 ∨ s.STAGE = Stage.sched ∧ 16 ≤ s.T.toNat ∨
      s.STAGE = Stage.init ∧ s.T = 0#6 ∨ s.STAGE = Stage.round ∨
      s.STAGE = Stage.accum ∧ s.T = 0#6)
    (hn : s.BUFLEN.val = 64) (hlast : s.LAST = true → s.FIN = true) (hcount : s.CountLegal)
    (hwf : s.BUF.wf) (hw : s.Filled) : s.Inv := by
  refine ⟨?_, ?_, ?_, hcount, hwf, hw⟩
  · obtain ⟨hg, ht⟩ | ⟨hg, ht⟩ | ⟨hg, ht⟩ | hg | ⟨hg, ht⟩ := hg
    · exact .inl ⟨hg, ht⟩
    · exact .inr (.inl ⟨hg, ht⟩)
    · simp [State.SeqLegal, hg, ht]
    · exact .inr (.inr (.inl hg))
    · simp [State.SeqLegal, hg, ht]
  · obtain ⟨hg, -⟩ | ⟨hg, -⟩ | ⟨hg, -⟩ | hg | ⟨hg, -⟩ := hg <;> simp [State.FillLegal, hg, hn]
  · obtain ⟨hg, -⟩ | ⟨hg, -⟩ | ⟨hg, -⟩ | hg | ⟨hg, -⟩ := hg <;>
      simpa [State.FlagsLegal, hg] using hlast

theorem State.inv_of_final {s : State} (hg : s.STAGE = Stage.final) (ht : s.T = 0#6)
    (hn : s.BUFLEN.val = 0) (hfin : s.FIN = true) (hlast : s.LAST = true) (hwf : s.BUF.wf) :
    s.Inv := by
  refine ⟨?_, ?_, ?_, by simp [hfin], hwf, by simp [State.Filled, hn]⟩
  · simp [State.SeqLegal, hg, ht]
  · simp [State.FillLegal, State.InBlock, hg, hn]
  · simp [State.FlagsLegal, hg, hfin, hlast]

/-- Every kind of step keeps the invariant. -/
theorem StepTo.inv {s t : State} (h : StepTo s t) (hi : s.Inv) : t.Inv := by
  have hi' := hi
  obtain ⟨hseq, ⟨fidle, ffill, flen, fblock, -⟩, ⟨gidle, gpad, -, glast⟩, hcount, hwf, hw⟩ := hi'
  cases h with
  | reset hr => exact resetMeetsInvariant
  | new hr hg ht hc =>
    exact State.inv_of_idle rfl rfl (by simp) rfl rfl rfl hwf (by simp [State.Filled])
  | feed b hr hg ht hc hl =>
    obtain ⟨hfin, hlast⟩ := gidle hg
    have hcount' : (s.BUFLEN.val + 1) % 64 = (s.TOTAL + 1).toNat % 64 := by
      have := hcount hfin
      rw [toNat_add_one]
      omega
    have hwf' := Memory.wf_write b hl hwf
    have hw' := Memory.isSome_read_write_of_filled b hw
    by_cases h64 : s.BUFLEN.val + 1 = 64
    · exact State.inv_of_block (.inl ⟨by simp [h64], by simp⟩) h64 (by simp [hlast])
        (fun _ => hcount') hwf' hw'
    · have hn : s.BUFLEN.val + 1 ≤ 63 := by omega
      rw [Nat.mod_eq_of_lt (by omega)] at hcount'
      exact State.inv_of_idle (by simp [h64]) rfl hn hfin hlast hcount' hwf' hw'
  | finalize hr hg ht hc =>
    exact State.inv_of_padding (.inl ⟨rfl, fidle (.inl hg)⟩) rfl rfl (gidle hg).2 hwf hw
  | stay r hr hrest hnew hidle => exact hi
  | pad b hr hg ht hl =>
    obtain ⟨hfin, hlast⟩ : s.FIN = true ∧ s.LAST = false :=
      gpad (hg.imp And.left fun h => .inl h.1)
    have hwf' := Memory.wf_write b hl hwf
    have hw' := Memory.isSome_read_write_of_filled b hw
    by_cases h64 : s.BUFLEN.val + 1 = 64
    · exact State.inv_of_block (.inl ⟨by simp [h64], by simp⟩) h64 (by simp [hlast])
        (by simp [State.CountLegal, hfin]) hwf' hw'
    · refine State.inv_of_padding ?_ rfl hfin hlast hwf' hw'
      by_cases h56 : s.BUFLEN.val + 1 = 56
      · simp [h56]
      · simp [h56, h64]
        omega
  | padlen hr hg ht =>
    have hfin : s.FIN = true := (gpad (.inr (.inr hg))).1
    have hw' : ∀ j < 56, (s.BUF.read j).isSome = true := fun j hj => hw j (by rwa [flen hg])
    exact State.inv_of_block (.inl ⟨rfl, by simp⟩) rfl (fun _ => hfin)
      (by simp [State.CountLegal, hfin]) (Memory.wf_writeAll _ (by simp [be64Bytes]) hwf)
      (Memory.isSome_read_writeAll_length _ hw')
  | loadw v hr hg ht hv =>
    refine State.inv_of_block ?_ (fblock (.inl hg)) glast hcount hwf hw
    by_cases h15 : s.T = 15#6
    · simp [h15]
    · have : s.T.toNat ≠ 15 := fun h => h15 (BitVec.eq_of_toNat_eq h)
      simp [h15]
      omega
  | sched hr hg ht =>
    refine State.inv_of_block ?_ (fblock (.inr (.inl hg))) glast hcount hwf hw
    by_cases h63 : s.T = 63#6
    · simp [h63]
    · have : s.T.toNat ≠ 63 := fun h => h63 (BitVec.eq_of_toNat_eq h)
      simp [h63]
      omega
  | init hr hg ht =>
    exact State.inv_of_block (by simp) (fblock (.inr (.inr (.inl hg)))) glast hcount hwf hw
  | round hr hg =>
    refine State.inv_of_block ?_ (fblock (.inr (.inr (.inr (.inl hg))))) glast hcount hwf hw
    by_cases h63 : s.T = 63#6 <;> simp [h63]
  | accum hr hg ht =>
    have hn : s.BUFLEN.val = 64 := fblock (.inr (.inr (.inr (.inr hg))))
    cases hlast : s.LAST
    · cases hfin : s.FIN
      · exact State.inv_of_idle (by simp) rfl (by simp) hfin hlast
          (by simpa [hn] using hcount hfin) hwf (by simp [State.Filled])
      · exact State.inv_of_padding (.inr (.inl (by simp))) rfl hfin hlast hwf
          (by simp [State.Filled])
    · exact State.inv_of_final (by simp) rfl rfl (glast hlast) hlast hwf

/-- Settles O28, kind of step by kind of step. -/
theorem stepKeepsInvariant : Obligations.StepKeepsInvariant := by
  unfold Obligations.StepKeepsInvariant
  exact fun s t hi h => (stepTo_of_step h).inv hi

end Sys2Proof.Machine
end

section
/-! The block routine, run forward (R119): which micro-operation a stage selects, the state after each
of the 130 steps, and the routine's net effect. -/

namespace Sys2Proof.Machine

/-! ### What `SEQ` and the port select -/

theorem decodeSeq_of_padmark {s : State} (hg : s.STAGE = Stage.padmark) (ht : s.T = 0#6) :
    decodeSeq s.seq = .instr .padmark := by simp [decodeSeq, hg, ht]

theorem decodeSeq_of_padfill {s : State} (hg : s.STAGE = Stage.padfill) (ht : s.T = 0#6) :
    decodeSeq s.seq = .instr .padfill := by simp [decodeSeq, hg, ht]

theorem decodeSeq_of_padlen {s : State} (hg : s.STAGE = Stage.padlen) (ht : s.T = 0#6) :
    decodeSeq s.seq = .instr .padlen := by simp [decodeSeq, hg, ht]

theorem decodeSeq_of_loadw {s : State} (hg : s.STAGE = Stage.loadw) (ht : s.T.toNat < 16) :
    decodeSeq s.seq = .instr (.loadw (s.T.extractLsb' 0 4)) := by simp [decodeSeq, hg, ht]

theorem decodeSeq_of_sched {s : State} (hg : s.STAGE = Stage.sched) (ht : 16 ≤ s.T.toNat) :
    decodeSeq s.seq = .instr (.sched s.T) := by simp [decodeSeq, hg, ht]

theorem decodeSeq_of_init {s : State} (hg : s.STAGE = Stage.init) (ht : s.T = 0#6) :
    decodeSeq s.seq = .instr .init := by simp [decodeSeq, hg, ht]

theorem decodeSeq_of_round {s : State} (hg : s.STAGE = Stage.round) :
    decodeSeq s.seq = .instr (.round s.T) := by simp [decodeSeq, hg]

theorem decodeSeq_of_accum {s : State} (hg : s.STAGE = Stage.accum) (ht : s.T = 0#6) :
    decodeSeq s.seq = .instr .accum := by simp [decodeSeq, hg, ht]

/-- A legal value of `SEQ` that is not at rest selects a micro-operation. -/
theorem State.SeqLegal.exists_uop {s : State} (h : s.SeqLegal) (hrest : s.atRest = false) :
    ∃ i, decodeSeq s.seq = .instr i := by
  obtain ⟨hg, ht⟩ | ⟨hg, ht⟩ | hg | ⟨ht, hg | hg | hg | hg | hg | hg | hg⟩ := h
  · exact ⟨_, decodeSeq_of_loadw hg ht⟩
  · exact ⟨_, decodeSeq_of_sched hg ht⟩
  · exact ⟨_, decodeSeq_of_round hg⟩
  · simp [s.atRest_iff.2 ⟨.inl hg, ht⟩] at hrest
  · exact ⟨_, decodeSeq_of_padmark hg ht⟩
  · exact ⟨_, decodeSeq_of_padfill hg ht⟩
  · exact ⟨_, decodeSeq_of_padlen hg ht⟩
  · exact ⟨_, decodeSeq_of_init hg ht⟩
  · exact ⟨_, decodeSeq_of_accum hg ht⟩
  · simp [s.atRest_iff.2 ⟨.inr hg, ht⟩] at hrest

/-- A rest value of `SEQ` selects no micro-operation. -/
theorem atRest_eq_false_of_decodeSeq {s : State} {i : Instr} (h : decodeSeq s.seq = .instr i) :
    s.atRest = false := by
  by_contra hrest
  obtain ⟨hg | hg, ht⟩ := s.atRest_iff.1 (by simpa using hrest) <;>
    simp [decodeSeq, hg, ht] at h

theorem State.busy_eq_false_iff (s : State) :
    s.busy = false ↔ s.STAGE = Stage.idle ∨ s.STAGE = Stage.final := by
  simp [State.busy, Classical.or_iff_not_imp_left]

/-- A step with reset asserted (R210). -/
theorem step_of_reset {s : State} (hr : s.sample.rst = true) :
    step s = .next { State.reset with inputs := s.inputs.tail } := by
  simp [step, engineStep, hr]

/-- A busy step runs the micro-operation that `SEQ` selects (R77). -/
theorem step_of_decodeSeq {s : State} {i : Instr} (hr : s.sample.rst = false)
    (h : decodeSeq s.seq = .instr i) : step s = exec i s.tick := by
  simp [step, engineStep, hr, atRest_eq_false_of_decodeSeq h, runUop, h]

/-- A step at rest runs the accepted command (R90). -/
theorem step_of_command {s : State} {w : CmdWord} {i : Instr} (hr : s.sample.rst = false)
    (hrest : s.atRest = true) (hc : s.sample.cmd = some w) (h : decodeCommand w = .instr i) :
    step s = exec i s.tick := by
  simp [step, engineStep, hr, hrest, acceptPort, hc, h]

/-! ### Runs along a sequence of states -/

/-- A sequence of states of which each steps to the next is a run. -/
theorem run_of_steps {f : Nat → State} (n : Nat) (h : ∀ k < n, step (f k) = .next (f (k + 1))) :
    run n (f 0) = .next (f n) := by
  induction n with
  | zero => rfl
  | succ n ih =>
    exact run_trans (ih fun k hk => h k (by omega)) ((run_one _).trans (h n (by omega)))

/-- The sample used by step `k` of a run whose host asserts no reset. -/
theorem State.NoReset.rst_drop {s : State} {n : Nat} (h : s.NoReset n) {k : Nat} (hk : k < n) :
    ((s.inputs.drop k).headD .quiet).rst = false := by
  rw [List.headD_eq_head?_getD, List.head?_drop]
  cases hp : s.inputs[k]? with
  | none => rfl
  | some p => exact h p (List.mem_of_getElem? (by rw [List.getElem?_take_of_lt hk, hp]))

theorem State.NoReset.mono {s : State} {m n : Nat} (h : s.NoReset n) (hmn : m ≤ n) :
    s.NoReset m := fun p hp => h p (List.take_subset_take_left _ hmn hp)

/-! ### The schedule of a block (R133) -/

theorem toNat_ofNat_of_lt {n : Nat} (h : n < 64) : (BitVec.ofNat 6 n).toNat = n := by
  simpa using h

/-- Word `t` of the schedule, once placed, stays. -/
theorem wAt_scheduleUpTo_of_lt (b : Block) {t : BitVec 6} {n : Nat} (ht : t.toNat < n)
    (hn : n ≤ 64) : wAt (scheduleUpTo b n) t = wAt (scheduleUpTo b (t.toNat + 1)) t := by
  induction n with
  | zero => omega
  | succ n ih =>
    by_cases h : t.toNat = n
    · rw [h]
    · have hne : t ≠ BitVec.ofNat 6 n := fun he => h (by rw [he, toNat_ofNat_of_lt (by omega)])
      rw [← ih (by omega) (by omega), scheduleUpTo, wAt_wSet, if_neg hne]

/-- Word `t` of the schedule, from the words before it. -/
theorem wAt_schedule_eq (b : Block) (t : BitVec 6) :
    wAt (schedule b) t = if t.toNat < 16 then blockWord b (t.extractLsb' 0 4)
      else scheduleWord (scheduleUpTo b t.toNat) t := by
  rw [schedule, wAt_scheduleUpTo_of_lt b t.isLt le_rfl, scheduleUpTo, BitVec.ofNat_toNat,
    BitVec.setWidth_eq, wAt_wSet, if_pos rfl]
  rfl

/-- A derived schedule word reads only words before it. -/
theorem scheduleWord_congr {w w' : Vector Word 64} {t : BitVec 6} (ht : 16 ≤ t.toNat)
    (h : ∀ j : BitVec 6, j.toNat < t.toNat → wAt w j = wAt w' j) :
    scheduleWord w t = scheduleWord w' t := by
  have key (n : BitVec 6) (h0 : 0 < n.toNat) (hn : n.toNat ≤ 16) :
      wAt w (t - n) = wAt w' (t - n) := by
    apply h
    rw [BitVec.toNat_sub_of_le (by rw [BitVec.le_def]; omega)]
    omega
  simp only [scheduleWord, key _ (by decide : 0 < (16#6).toNat) (by decide),
    key _ (by decide : 0 < (15#6).toNat) (by decide), key _ (by decide : 0 < (7#6).toNat) (by decide),
    key _ (by decide : 0 < (2#6).toNat) (by decide)]

theorem wAt_schedule_of_lt (b : Block) {t : BitVec 6} (ht : t.toNat < 16) :
    wAt (schedule b) t = blockWord b (t.extractLsb' 0 4) := by
  rw [wAt_schedule_eq, if_pos ht]

/-- The recurrence of R133. -/
theorem wAt_schedule_of_le (b : Block) {t : BitVec 6} (ht : 16 ≤ t.toNat) :
    wAt (schedule b) t = scheduleWord (schedule b) t := by
  rw [wAt_schedule_eq, if_neg (by omega)]
  refine scheduleWord_congr ht fun j hj => ?_
  rw [schedule, wAt_scheduleUpTo_of_lt b hj (by omega), wAt_scheduleUpTo_of_lt b j.isLt le_rfl]

/-! ### LOADW and SCHED of a block routine -/

theorem vector_ext_wAt {w w' : Vector Word 64} (h : ∀ t, wAt w t = wAt w' t) : w = w' := by
  ext1 i hi
  have := h (BitVec.ofNat 6 i)
  simpa only [wAt, toNat_ofNat_of_lt hi] using this

/-- A schedule file `w` with the first `n` words of the schedule of `b` written into it. -/
def scheduledUpTo (b : Block) (w : Vector Word 64) : Nat → Vector Word 64
  | 0 => w
  | n + 1 => wSet (scheduledUpTo b w n) (BitVec.ofNat 6 n) (wAt (schedule b) (BitVec.ofNat 6 n))

theorem wAt_scheduledUpTo_of_lt (b : Block) (w : Vector Word 64) {n : Nat} (hn : n ≤ 64)
    {t : BitVec 6} (ht : t.toNat < n) : wAt (scheduledUpTo b w n) t = wAt (schedule b) t := by
  induction n with
  | zero => omega
  | succ n ih =>
    rw [scheduledUpTo, wAt_wSet]
    by_cases h : t.toNat = n
    · rw [← h, BitVec.ofNat_toNat, BitVec.setWidth_eq, if_pos rfl]
    · have hne : t ≠ BitVec.ofNat 6 n := fun he => h (by rw [he, toNat_ofNat_of_lt (by omega)])
      rw [if_neg hne, ih (by omega) (by omega)]

theorem scheduledUpTo_all (b : Block) (w : Vector Word 64) : scheduledUpTo b w 64 = schedule b :=
  vector_ext_wAt fun t => wAt_scheduledUpTo_of_lt b w le_rfl t.isLt

/-- The state after `k` of the 64 steps LOADW and SCHED of the block routine on `b`. -/
def State.scheduling (s : State) (b : Block) (k : Nat) : State :=
  { s with
    W := scheduledUpTo b s.W k
    STAGE := if k < 16 then Stage.loadw else if k < 64 then Stage.sched else Stage.init
    T := BitVec.ofNat 6 k
    resp := if k = 0 then s.resp else none
    inputs := s.inputs.drop k }

theorem State.HoldsBlock.read32 {s : State} {b : Block} (h : s.HoldsBlock b) (t : BitVec 4) :
    s.BUF.read32 (4 * t.toNat) = .ok (blockWord b t) := by
  have := t.isLt
  have read {j : Nat} (hj : j < 64) : s.BUF.read j = some b[j] := h ⟨j, hj⟩
  exact Memory.read32_ok (by omega) (read (by omega)) (read (by omega)) (read (by omega))
    (read (by omega))

theorem execLoadw_of_holdsBlock {s : State} {b : Block} (h : s.HoldsBlock b) (t : BitVec 4) :
    execLoadw t s = .next
      { s with
        W := wSet s.W (t.setWidth 6) (blockWord b t)
        STAGE := if t = 15#4 then Stage.sched else Stage.loadw
        T := t.setWidth 6 + 1#6 } := by
  simp only [execLoadw, h.read32]
  split
  · next ht => subst ht; rfl
  · rfl

theorem execSched_of_le {s : State} {t : BitVec 6} (ht : 16 ≤ t.toNat) :
    execSched t s = .next
      { s with
        W := wSet s.W t (scheduleWord s.W t)
        STAGE := if t = 63#6 then Stage.init else Stage.sched
        T := t + 1#6 } := by
  simp only [execSched, if_neg (Nat.not_lt.2 ht)]
  split
  · next h => subst h; rfl
  · rfl

theorem step_of_loadw {s : State} {b : Block} (hr : s.sample.rst = false) (hb : s.HoldsBlock b)
    (hg : s.STAGE = Stage.loadw) (ht : s.T.toNat < 16) :
    step s = .next
      { s.tick with
        W := wSet s.W s.T (wAt (schedule b) s.T)
        STAGE := if s.T.toNat = 15 then Stage.sched else Stage.loadw
        T := s.T + 1#6 } := by
  have hlast : s.T.extractLsb' 0 4 = 15#4 ↔ s.T.toNat = 15 := by
    rw [extractLsb'_eq_fifteen_iff ht, ← BitVec.toNat_inj]
    rfl
  rw [step_of_decodeSeq hr (decodeSeq_of_loadw hg ht)]
  refine (execLoadw_of_holdsBlock (s := s.tick) hb _).trans ?_
  simp only [wAt_schedule_of_lt b ht, setWidth_extractLsb'_of_lt ht, hlast]
  rfl

theorem step_of_sched {s : State} (hr : s.sample.rst = false) (hg : s.STAGE = Stage.sched)
    (ht : 16 ≤ s.T.toNat) :
    step s = .next
      { s.tick with
        W := wSet s.W s.T (scheduleWord s.W s.T)
        STAGE := if s.T.toNat = 63 then Stage.init else Stage.sched
        T := s.T + 1#6 } := by
  have hlast : s.T = 63#6 ↔ s.T.toNat = 63 := by
    rw [← BitVec.toNat_inj]
    rfl
  rw [step_of_decodeSeq hr (decodeSeq_of_sched hg ht)]
  refine (execSched_of_le (s := s.tick) ht).trans ?_
  simp only [hlast]
  rfl

/-- The next word of a schedule file whose words before it are in place. -/
theorem scheduleWord_scheduledUpTo (b : Block) (w : Vector Word 64) {k : Nat} (h16 : 16 ≤ k)
    (hk : k < 64) : scheduleWord (scheduledUpTo b w k) (BitVec.ofNat 6 k) =
      wAt (schedule b) (BitVec.ofNat 6 k) := by
  have hT := toNat_ofNat_of_lt hk
  rw [wAt_schedule_of_le b (by omega)]
  exact scheduleWord_congr (by omega)
    fun j hj => wAt_scheduledUpTo_of_lt b w hk.le (by omega)

@[simp] theorem State.scheduling_sample (s : State) (b : Block) (k : Nat) :
    (s.scheduling b k).sample = (s.inputs.drop k).headD .quiet := rfl

@[simp] theorem State.scheduling_T (s : State) (b : Block) (k : Nat) :
    (s.scheduling b k).T = BitVec.ofNat 6 k := rfl

@[simp] theorem State.scheduling_STAGE (s : State) (b : Block) (k : Nat) :
    (s.scheduling b k).STAGE =
      if k < 16 then Stage.loadw else if k < 64 then Stage.sched else Stage.init := rfl

@[simp] theorem State.scheduling_BUF (s : State) (b : Block) (k : Nat) :
    (s.scheduling b k).BUF = s.BUF := rfl

@[simp] theorem State.scheduling_inputs (s : State) (b : Block) (k : Nat) :
    (s.scheduling b k).inputs = s.inputs.drop k := rfl

theorem State.HoldsBlock.of_BUF_eq {s t : State} {b : Block} (h : s.HoldsBlock b)
    (he : t.BUF = s.BUF) : t.HoldsBlock b := by
  intro j
  rw [he]
  exact h j

theorem State.scheduling_zero {s : State} (b : Block) (hg : s.STAGE = Stage.loadw)
    (ht : s.T = 0#6) : s.scheduling b 0 = s := by
  simp [State.scheduling, scheduledUpTo, ← hg, ← ht]

theorem State.scheduling_all (s : State) (b : Block) :
    s.scheduling b 64 =
      { s with
        W := schedule b, STAGE := Stage.init, T := 0#6, resp := none
        inputs := s.inputs.drop 64 } := by
  simp [State.scheduling, scheduledUpTo_all]

/-- One LOADW or SCHED of the block routine. -/
theorem step_scheduling {s : State} {b : Block} (hb : s.HoldsBlock b) {k : Nat} (hk : k < 64)
    (hr : ((s.inputs.drop k).headD .quiet).rst = false) :
    step (s.scheduling b k) = .next (s.scheduling b (k + 1)) := by
  have hT : (BitVec.ofNat 6 k).toNat = k := toNat_ofNat_of_lt hk
  have hsucc : BitVec.ofNat 6 k + 1#6 = BitVec.ofNat 6 (k + 1) := (BitVec.ofNat_add k 1).symm
  rw [← State.scheduling_sample] at hr
  by_cases h16 : k < 16
  · have hg : (s.scheduling b k).STAGE = Stage.loadw := by simp [h16]
    have ht : (s.scheduling b k).T.toNat < 16 := by rwa [State.scheduling_T, hT]
    have hnext : (if k = 15 then Stage.sched else Stage.loadw) =
        if k + 1 < 16 then Stage.loadw else if k + 1 < 64 then Stage.sched else Stage.init := by
      by_cases h15 : k = 15
      · simp [h15]
      · rw [if_neg h15, if_pos (by omega)]
    rw [step_of_loadw hr (hb.of_BUF_eq rfl) hg ht]
    simp only [State.scheduling, State.tick, hT, scheduledUpTo, hsucc, List.tail_drop, hnext,
      if_neg k.succ_ne_zero]
  · have hg : (s.scheduling b k).STAGE = Stage.sched := by simp [h16, hk]
    have ht : 16 ≤ (s.scheduling b k).T.toNat := by rw [State.scheduling_T, hT]; omega
    have hw := scheduleWord_scheduledUpTo b s.W (Nat.not_lt.1 h16) hk
    have hnext : (if k = 63 then Stage.init else Stage.sched) =
        if k + 1 < 16 then Stage.loadw else if k + 1 < 64 then Stage.sched else Stage.init := by
      by_cases h63 : k = 63
      · simp [h63]
      · rw [if_neg h63, if_neg (by omega), if_pos (by omega)]
    rw [step_of_sched hr hg ht]
    simp only [State.scheduling, State.tick, hT, hw, scheduledUpTo, hsucc, List.tail_drop, hnext,
      if_neg k.succ_ne_zero]

/-- The first `k` of the 64 steps LOADW and SCHED. -/
theorem run_scheduling {s : State} {b : Block} (hg : s.STAGE = Stage.loadw) (ht : s.T = 0#6)
    (hb : s.HoldsBlock b) {k : Nat} (hk : k ≤ 64) (hr : s.NoReset k) :
    run k s = .next (s.scheduling b k) := by
  have h := run_of_steps (f := s.scheduling b) k
    fun j hj => step_scheduling hb (by omega) (hr.rst_drop hj)
  rwa [s.scheduling_zero b hg ht] at h

/-! ### INIT, ROUND and ACCUM of a block routine -/

/-- The state after INIT and `k` of the 64 rounds of a block routine. -/
def State.compressing (s : State) (k : Nat) : State :=
  { s with
    R := compressUpTo s.H s.W k
    STAGE := if k < 64 then Stage.round else Stage.accum
    T := BitVec.ofNat 6 k
    resp := none
    inputs := s.inputs.drop (k + 1) }

@[simp] theorem State.compressing_sample (s : State) (k : Nat) :
    (s.compressing k).sample = (s.inputs.drop (k + 1)).headD .quiet := rfl

@[simp] theorem State.compressing_T (s : State) (k : Nat) :
    (s.compressing k).T = BitVec.ofNat 6 k := rfl

@[simp] theorem State.compressing_STAGE (s : State) (k : Nat) :
    (s.compressing k).STAGE = if k < 64 then Stage.round else Stage.accum := rfl

theorem State.compressing_all (s : State) :
    s.compressing 64 =
      { s with
        R := compress s.H s.W, STAGE := Stage.accum, T := 0#6, resp := none
        inputs := s.inputs.drop 65 } := by
  simp [State.compressing, compress]

theorem step_of_init {s : State} (hr : s.sample.rst = false) (hg : s.STAGE = Stage.init)
    (ht : s.T = 0#6) : step s = .next (s.compressing 0) := by
  rw [step_of_decodeSeq hr (decodeSeq_of_init hg ht)]
  simp [State.compressing, compressUpTo, exec, execInit, State.tick, State.setR, State.setSeq]

theorem step_of_accum {s : State} (hr : s.sample.rst = false) (hg : s.STAGE = Stage.accum)
    (ht : s.T = 0#6) :
    step s = .next
      { s.tick with
        H := accumulate s.H s.R
        BUFLEN := 0
        STAGE := if s.LAST then Stage.final else if s.FIN then Stage.padfill else Stage.idle
        T := 0#6 } := by
  rw [step_of_decodeSeq hr (decodeSeq_of_accum hg ht)]
  exact execAccum_eq s.tick

/-- One round of the block routine. -/
theorem step_compressing {s : State} {k : Nat} (hk : k < 64)
    (hr : ((s.inputs.drop (k + 1)).headD .quiet).rst = false) :
    step (s.compressing k) = .next (s.compressing (k + 1)) := by
  have hg : (s.compressing k).STAGE = Stage.round := by simp [hk]
  have hsucc : BitVec.ofNat 6 k + 1#6 = BitVec.ofNat 6 (k + 1) := (BitVec.ofNat_add k 1).symm
  have hlast : BitVec.ofNat 6 k = 63#6 ↔ k = 63 := by
    rw [← BitVec.toNat_inj, toNat_ofNat_of_lt hk, toNat_ofNat_of_lt (by decide)]
  have hnext : (if k = 63 then Stage.accum else Stage.round) =
      if k + 1 < 64 then Stage.round else Stage.accum := by
    by_cases h63 : k = 63
    · simp [h63]
    · rw [if_neg h63, if_pos (by omega)]
  rw [← State.compressing_sample] at hr
  rw [step_of_decodeSeq hr (decodeSeq_of_round hg)]
  refine (execRound_eq _ _).trans ?_
  simp only [State.compressing, State.tick, hlast, hnext, hsucc, List.tail_drop, compressUpTo]

/-- INIT and the first `k` of the 64 rounds. -/
theorem run_compressing {s : State} (hg : s.STAGE = Stage.init) (ht : s.T = 0#6) {k : Nat}
    (hk : k ≤ 64) (hr : s.NoReset (k + 1)) : run (k + 1) s = .next (s.compressing k) := by
  have hinit : run 1 s = .next (s.compressing 0) :=
    (run_one s).trans (step_of_init (hr.rst_drop k.succ_pos) hg ht)
  have hrounds := run_of_steps (f := s.compressing) k
    fun j hj => step_compressing (by omega) (hr.rst_drop (by omega))
  rw [Nat.add_comm]
  exact run_trans hinit hrounds

/-! ### The whole block routine -/

/-- What the block routine on `b` leaves behind (R119). -/
def State.afterBlock (s : State) (b : Block) : State :=
  { s with
    H := compressBlock s.H b, W := schedule b, R := compress s.H (schedule b)
    BUFLEN := 0, T := 0#6, resp := none, inputs := s.inputs.drop 130
    STAGE := if s.LAST = true then Stage.final
      else if s.FIN = true then Stage.padfill else Stage.idle }

theorem State.NoReset.scheduling {s : State} {m n : Nat} (h : s.NoReset n) (b : Block) {k : Nat}
    (hk : k + m ≤ n) : (s.scheduling b k).NoReset m := by
  intro p hp
  refine h p ?_
  rw [State.scheduling_inputs, List.take_drop] at hp
  exact List.take_subset_take_left _ hk (List.drop_subset _ _ hp)

section
variable {s : State} {b : Block}

/-- LOADW, SCHED, INIT and `k` rounds. -/
theorem run_scheduling_compressing (hg : s.STAGE = Stage.loadw) (ht : s.T = 0#6)
    (hb : s.HoldsBlock b) {k : Nat} (hk : k ≤ 64) (hr : s.NoReset (65 + k)) :
    run (64 + (k + 1)) s = .next ((s.scheduling b 64).compressing k) :=
  run_trans (run_scheduling hg ht hb le_rfl (hr.mono (by omega)))
    (run_compressing rfl rfl hk (hr.scheduling b (by omega)))

/-- R119: the block routine on the block in `BUF` compresses it into `H`. -/
theorem run_block (hg : s.STAGE = Stage.loadw) (ht : s.T = 0#6) (hb : s.HoldsBlock b)
    (hr : s.NoReset 130) : run 130 s = .next (s.afterBlock b) := by
  have h := run_scheduling_compressing hg ht hb le_rfl (hr.mono (by omega))
  refine run_trans h ((run_one _).trans ?_)
  have hlast : ((s.scheduling b 64).compressing 64).sample.rst = false := by
    rw [State.compressing_sample, State.scheduling_inputs, List.drop_drop]
    exact hr.rst_drop (by omega)
  rw [step_of_accum hlast rfl rfl, State.compressing_all, State.scheduling_all]
  simp [State.afterBlock, State.tick, compressBlock]

/-- The engine is busy before each of the 130 steps. -/
theorem busy_in_block (hg : s.STAGE = Stage.loadw) (ht : s.T = 0#6) (hb : s.HoldsBlock b)
    (hr : s.NoReset 130) : ∀ k < 130, Reaches s k fun u => u.busy = true := by
  intro k hk
  by_cases h : k ≤ 64
  · refine ⟨_, run_scheduling hg ht hb h (hr.mono (by omega)), ?_⟩
    simp only [State.busy, State.scheduling_STAGE]
    split_ifs <;> rfl
  · obtain ⟨j, rfl⟩ : ∃ j, k = 64 + (j + 1) := ⟨k - 65, by omega⟩
    refine ⟨_, run_scheduling_compressing hg ht hb (by omega) (hr.mono (by omega)), ?_⟩
    simp only [State.busy, State.compressing_STAGE]
    split_ifs <;> rfl

end

end Sys2Proof.Machine
end

section
/-! The message an engine holds between commands (R37 item 5): how the blocks of a message grow with
it, the host that waits, and FEED and NEW run to rest. -/

namespace Sys2Proof.Machine

/-! ### Waiting (R80) -/

theorem wait_of_ready {s : State} (h : s.busy = false) (n : Nat) : wait n s = .next s := by
  cases n with
  | zero => rfl
  | succ n => simp [wait, State.cmdReady, h]

/-- A host that waits gets the state in which a busy run ends at rest. -/
theorem wait_of_busy_run {s t : State} {n m : Nat} (hnm : n ≤ m)
    (hbusy : ∀ k < n, Reaches s k fun u => u.busy = true) (h : run n s = .next t)
    (ht : t.busy = false) : wait m s = .next t := by
  induction n generalizing s m with
  | zero =>
    cases h
    exact wait_of_ready ht m
  | succ n ih =>
    obtain ⟨m, rfl⟩ : ∃ m', m = m' + 1 := ⟨m - 1, by omega⟩
    obtain ⟨s₀, h₀, hs⟩ := hbusy 0 (by omega)
    cases h₀
    simp only [wait, State.cmdReady, hs, Bool.not_true, Bool.false_eq_true, if_false]
    simp only [run] at h
    cases hu : step s with
    | next u =>
      rw [hu] at h
      refine ih (by omega) (fun k hk => ?_) h
      obtain ⟨v, hv, hbv⟩ := hbusy (k + 1) (by omega)
      simp only [run, hu] at hv
      exact ⟨v, hv, hbv⟩
    | fault r => simp [hu, andThen] at h
    | refused r => simp [hu, andThen] at h

/-- The block routine as the waiting host sees it. -/
theorem wait_block {s : State} {b : Block} (hg : s.STAGE = Stage.loadw) (ht : s.T = 0#6)
    (hb : s.HoldsBlock b) (hr : s.NoReset 130) (hrest : (s.afterBlock b).busy = false) :
    wait maxBusy s = .next (s.afterBlock b) :=
  wait_of_busy_run (by decide) (busy_in_block hg ht hb hr) (run_block hg ht hb hr) hrest

/-! ### The blocks of a growing message (R112) -/

theorem blockAt_getElem (p : List Byte) (q : Nat) {j : Nat} (hj : j < 64) :
    (blockAt p q)[j] = p.getD (64 * q + j) 0 := by simp [blockAt]

theorem blockAt_take (p : List Byte) {i q : Nat} (h : i < q) :
    blockAt (p.take (64 * q)) i = blockAt p i := by
  ext1 j hj
  rw [blockAt_getElem _ _ hj, blockAt_getElem _ _ hj, List.getD_eq_getElem?_getD,
    List.getD_eq_getElem?_getD, List.getElem?_take_of_lt (by omega)]

/-- The first `q` whole blocks of a byte sequence. -/
theorem blocks_take {p : List Byte} {q : Nat} (h : 64 * q ≤ p.length) :
    blocks (p.take (64 * q)) = (List.range q).map (blockAt p) := by
  rw [blocks, List.length_take, Nat.min_eq_left h, Nat.mul_div_cancel_left q (by decide)]
  exact List.map_congr_left fun i hi => blockAt_take p (List.mem_range.1 hi)

/-- What the first `q` whole blocks of a message make of the Initial State. -/
def chained (m : List Byte) (q : Nat) : Vector Word 8 :=
  (blocks (m.take (64 * q))).foldl compressBlock config.H0

theorem chained_succ {m : List Byte} {q : Nat} (h : 64 * (q + 1) ≤ m.length) :
    chained m (q + 1) = compressBlock (chained m q) (blockAt m q) := by
  rw [chained, chained, blocks_take h, blocks_take (by omega), List.range_succ, List.map_append,
    List.foldl_append]
  rfl

theorem chained_append {m : List Byte} (m' : List Byte) {q : Nat} (h : 64 * q ≤ m.length) :
    chained (m ++ m') q = chained m q := by
  rw [chained, List.take_append_of_le_length h, chained]

/-! ### The empty message -/

theorem holdsMessage_nil {s : State} (hg : s.STAGE = Stage.idle) (ht : s.T = 0#6)
    (hfin : s.FIN = false) (hlast : s.LAST = false) (hn : s.BUFLEN.val = 0) (htot : s.TOTAL = 0)
    (hH : s.H = config.H0) : s.HoldsMessage [] :=
  ⟨hg, ht, hfin, hlast, hn, htot, hH, fun _ hj => absurd hj (Nat.not_lt_zero _)⟩

/-- The state in which a sent word runs: its host drives nothing more. -/
def State.quieted (s : State) : State := { s with inputs := [], resp := none }

/-- A legal word sent to an engine at rest: the command runs, and the host waits. -/
theorem send_eq {s : State} {w : CmdWord} {i : Instr} (hrest : s.atRest = true)
    (h : decodeCommand w = .instr i) :
    send w s = andThen (exec i s.quieted) (wait maxBusy) := by
  rw [send, step_of_command (s := { s with inputs := [_] }) rfl hrest rfl h]
  rfl

/-- NEW leaves an engine at rest with the empty message. -/
theorem send_newWord {s : State} (ht : s.T = 0#6)
    (hg : s.STAGE = Stage.idle ∨ s.STAGE = Stage.final) :
    ∃ t, send newWord s = .next t ∧ t.HoldsMessage [] := by
  have hrest : s.atRest = true := s.atRest_iff.2 ⟨hg, ht⟩
  refine ⟨_, ?_, holdsMessage_nil (s := { s.restart with inputs := [], resp := some .ok })
    rfl rfl rfl rfl rfl rfl rfl⟩
  rw [send_eq hrest decodeCommand_newWord]
  refine (congrArg (andThen · (wait maxBusy)) (execNew_of_rest (s := s.quieted) hg)).trans ?_
  exact wait_of_ready rfl _

/-! ### One more byte -/

/-- The state after an accepted FEED (R92), its host driving nothing more. -/
def State.fed (s : State) (b : Byte) (h : s.BUFLEN.val < 64) : State :=
  { s with
    BUF := s.BUF.write s.BUFLEN.val b
    BUFLEN := ⟨s.BUFLEN.val + 1, by omega⟩
    TOTAL := s.TOTAL + 1
    STAGE := if s.BUFLEN.val + 1 = 64 then Stage.loadw else Stage.idle
    T := 0#6
    resp := some .ok
    inputs := [] }

theorem send_feedWord {s : State} (b : Byte) (hg : s.STAGE = Stage.idle) (ht : s.T = 0#6)
    (hl : s.BUFLEN.val < 64) : send (feedWord b) s = wait maxBusy (s.fed b hl) := by
  rw [send_eq (s.atRest_iff.2 ⟨.inl hg, ht⟩) (decodeCommand_feedWord b)]
  exact congrArg (andThen · (wait maxBusy)) (execFeed_of_lt (s := s.quieted) b hg hl)

section
variable {s : State} {m : List Byte} (b : Byte)

/-- The bytes of the block in progress after one more byte. -/
theorem State.HoldsMessage.read_fed (h : s.HoldsMessage m) (hl : s.BUFLEN.val < 64) {j : Nat}
    (hj : j < m.length % 64 + 1) :
    (s.fed b hl).BUF.read j = (m ++ [b])[64 * (m.length / 64) + j]? := by
  obtain ⟨-, -, -, -, hn, -, -, hbuf⟩ := h
  simp only [State.fed, Memory.read_write, hn]
  by_cases hlast : j = m.length % 64
  · rw [if_pos hlast, List.getElem?_append_right (by omega)]
    simp [hlast, Nat.div_add_mod]
  · rw [if_neg hlast, hbuf j (by omega), List.getElem?_append_left (by omega)]

theorem State.HoldsMessage.total_fed (h : s.HoldsMessage m) (hl : s.BUFLEN.val < 64) :
    (s.fed b hl).TOTAL = BitVec.ofNat 64 (m ++ [b]).length := by
  obtain ⟨-, -, -, -, -, htot, -, -⟩ := h
  rw [List.length_append, List.length_singleton, BitVec.ofNat_add, ← htot]
  rfl

/-- A FEED that does not fill the buffer. -/
theorem State.HoldsMessage.fed_of_lt (h : s.HoldsMessage m) (hl : s.BUFLEN.val < 64)
    (hroom : m.length % 64 < 63) : (s.fed b hl).HoldsMessage (m ++ [b]) := by
  have htot := h.total_fed b hl
  have hread := @State.HoldsMessage.read_fed s m b h hl
  obtain ⟨hg, ht, hfin, hlast, hn, -, hH, -⟩ := h
  have hlen : (m ++ [b]).length = m.length + 1 := by simp
  have hdiv : (m ++ [b]).length / 64 = m.length / 64 := by omega
  have hmod : (m ++ [b]).length % 64 = m.length % 64 + 1 := by omega
  refine ⟨if_neg (by omega), rfl, hfin, hlast, by rw [hmod, ← hn]; rfl, htot, ?_, ?_⟩
  · rw [hdiv]
    exact hH.trans (chained_append [b] (by omega)).symm
  · rw [hdiv, hmod]
    exact fun j hj => hread hj

/-- A FEED that fills the buffer leaves the next block of the message in it. -/
theorem State.HoldsMessage.holdsBlock_fed (h : s.HoldsMessage m) (hl : s.BUFLEN.val < 64)
    (hfull : m.length % 64 = 63) :
    (s.fed b hl).HoldsBlock (blockAt (m ++ [b]) (m.length / 64)) := by
  intro j
  have hj := j.isLt
  rw [h.read_fed b hl (by omega), Fin.getElem_fin, blockAt_getElem _ _ hj,
    List.getD_eq_getElem?_getD, List.getElem?_eq_getElem (by simp; omega), Option.getD_some]

/-- The block routine that such a FEED starts takes the block into `H`. -/
theorem State.HoldsMessage.fed_of_full (h : s.HoldsMessage m) (hl : s.BUFLEN.val < 64)
    (hfull : m.length % 64 = 63) :
    ((s.fed b hl).afterBlock (blockAt (m ++ [b]) (m.length / 64))).HoldsMessage (m ++ [b]) := by
  have htot := h.total_fed b hl
  obtain ⟨hg, ht, hfin, hlast, hn, -, hH, -⟩ := h
  have hlen : (m ++ [b]).length = m.length + 1 := by simp
  have hdiv : (m ++ [b]).length / 64 = m.length / 64 + 1 := by omega
  have hmod : (m ++ [b]).length % 64 = 0 := by omega
  have hidle : ((s.fed b hl).afterBlock (blockAt (m ++ [b]) (m.length / 64))).STAGE =
      Stage.idle := by
    simp [State.afterBlock, State.fed, hfin, hlast]
  refine ⟨hidle, rfl, hfin, hlast, by rw [hmod]; rfl, htot, ?_, fun j hj => by omega⟩
  rw [hdiv]
  refine Eq.trans ?_ (chained_succ (by omega)).symm
  rw [chained_append [b] (by omega)]
  exact congrArg (compressBlock · _) hH

/-- A FEED run to rest appends its byte to the message held. -/
theorem State.HoldsMessage.send_feedWord (h : s.HoldsMessage m) :
    ∃ t, send (feedWord b) s = .next t ∧ t.HoldsMessage (m ++ [b]) := by
  have h' := h
  obtain ⟨hg, ht, hfin, hlast, hn, -⟩ := h'
  have hl : s.BUFLEN.val < 64 := by omega
  rw [Machine.send_feedWord b hg ht hl]
  by_cases hroom : m.length % 64 < 63
  · refine ⟨_, wait_of_ready ?_ _, h.fed_of_lt b hl hroom⟩
    simp [State.busy, (h.fed_of_lt b hl hroom).1]
  · have hfull : m.length % 64 = 63 := by omega
    refine ⟨_, wait_block (if_pos (by omega)) rfl (h.holdsBlock_fed b hl hfull) ?_ ?_,
      h.fed_of_full b hl hfull⟩
    · intro p hp
      simp [State.fed] at hp
    · simp [State.busy, (h.fed_of_full b hl hfull).1]

end

/-- Settles O40: reset and NEW give the empty message, and FEED, through the block routine where the
buffer is full, appends its byte. -/
theorem fedMessageIsHeld : Obligations.FedMessageIsHeld := by
  unfold Obligations.FedMessageIsHeld
  exact ⟨holdsMessage_nil rfl rfl rfl rfl rfl rfl rfl, fun s ht hg => send_newWord ht hg,
    fun s m b h => h.send_feedWord b⟩

end Sys2Proof.Machine
end

section
/-! What a step from a state with the invariant can and cannot do: it has a next state, `SEQ` moves by
the table of R35, and `TOTAL` counts the fed bytes (R26). With them the stops of the model's own
(log entries 3, 11) and the values after reset (R38). -/

namespace Sys2Proof.Machine

/-! ### Stops -/

/-- Settles O10: each of the three instructions appends, and `BUF` has no room. -/
theorem fullBufferStopsAppend : Obligations.FullBufferStopsAppend := by
  unfold Obligations.FullBufferStopsAppend
  exact fun s hn => ⟨padByte_of_full _ hn, padByte_of_full _ hn,
    fun b hg => execFeed_of_full b hg hn⟩

/-- Settles O14: the four bytes are read one after the other, and one of the reads fails. -/
theorem loadwStopsOnUnwrittenByte : Obligations.LoadwStopsOnUnwrittenByte := by
  unfold Obligations.LoadwStopsOnUnwrittenByte
  intro t s h
  have := t.isLt
  show execLoadw t s = .fault .bufUnwritten
  rw [execLoadw, Memory.read32_unwritten (by omega) h]

/-- Settles O25: the fields and the outputs of the one state after reset. -/
theorem resetLeavesIdleEngine : Obligations.ResetLeavesIdleEngine := by
  unfold Obligations.ResetLeavesIdleEngine
  decide

/-! ### Progress -/

/-- A LOADW below a filled buffer finds its four bytes written. -/
theorem Memory.read32_of_filled {m : Memory} (h : ∀ j < 64, (m.read j).isSome = true) {a : Nat}
    (ha : a + 3 < 64) : ∃ v, m.read32 a = .ok v := by
  obtain ⟨b0, h0⟩ := Option.isSome_iff_exists.1 (h a (by omega))
  obtain ⟨b1, h1⟩ := Option.isSome_iff_exists.1 (h (a + 1) (by omega))
  obtain ⟨b2, h2⟩ := Option.isSome_iff_exists.1 (h (a + 2) (by omega))
  obtain ⟨b3, h3⟩ := Option.isSome_iff_exists.1 (h (a + 3) ha)
  exact ⟨_, Memory.read32_ok ha h0 h1 h2 h3⟩

theorem execLoadw_of_read32 {s : State} {u : BitVec 4} {v : Word}
    (h : s.BUF.read32 (4 * u.toNat) = .ok v) : ∃ t, execLoadw u s = .next t := by
  rw [execLoadw, h]
  exact ⟨_, rfl⟩

/-- A command accepted at rest has a next state: IDLE leaves room for a byte. -/
theorem exec_command_next {s : State} (hg : s.STAGE = Stage.idle ∨ s.STAGE = Stage.final)
    (hn : s.STAGE = Stage.idle → s.BUFLEN.val ≤ 63) {w : CmdWord} {i : Instr}
    (hd : decodeCommand w = .instr i) : ∃ t, exec i s = .next t := by
  obtain ⟨rfl, -⟩ | ⟨b, rfl, -⟩ | ⟨rfl, -⟩ := word_of_decodeCommand hd
  · exact ⟨_, execNew_of_rest hg⟩
  · rcases hg with hg | hg
    · exact ⟨_, execFeed_of_lt b hg (by have := hn hg; omega)⟩
    · exact ⟨_, execFeed_of_final b hg⟩
  · rcases hg with hg | hg
    · exact ⟨_, execFinalize_of_idle hg⟩
    · exact ⟨_, execFinalize_of_final hg⟩

/-- The micro-operation that `SEQ` selects has a next state: the padding stages leave room for a
byte, and the block routine finds a full buffer written. -/
theorem exec_uop_next {s : State} (hfill : s.FillLegal) (hw : s.Filled) {i : Instr}
    (hd : decodeSeq s.seq = .instr i) : ∃ t, exec i s = .next t := by
  obtain ⟨fidle, ffill, -, fblock, -⟩ := hfill
  have hcases := decodeSeq_cases hd
  simp only [seqStage_seq, seqT_seq] at hcases
  obtain ⟨rfl, hg, -⟩ | ⟨rfl, hg, -⟩ | ⟨rfl, -⟩ | ⟨rfl, hg, ht⟩ | ⟨rfl, -, ht⟩ | ⟨rfl, -⟩ |
    ⟨rfl, -⟩ | ⟨rfl, -⟩ := hcases
  · exact ⟨_, padByte_of_lt _ (by have := fidle (.inr hg); omega)⟩
  · exact ⟨_, padByte_of_lt _ (by have := ffill hg; omega)⟩
  · exact ⟨_, rfl⟩
  · have hn : s.BUFLEN.val = 64 := fblock (.inl hg)
    obtain ⟨v, hv⟩ := Memory.read32_of_filled (m := s.BUF) (fun j hj => hw j (by omega))
      (a := 4 * (s.T.extractLsb' 0 4).toNat) (by rw [toNat_extractLsb'_of_lt ht]; omega)
    exact execLoadw_of_read32 hv
  · exact ⟨_, execSched_of_le ht⟩
  · exact ⟨_, rfl⟩
  · exact ⟨_, execRound_eq _ _⟩
  · exact ⟨_, execAccum_eq _⟩

/-- Settles O29: of all that a step can do, the invariant leaves no stop. -/
theorem invariantStatesNeverStop : Obligations.InvariantStatesNeverStop := by
  unfold Obligations.InvariantStatesNeverStop
  rintro s ⟨hseq, hfill, -, -, -, hw⟩
  obtain ⟨-, hs⟩ | ⟨-, -, -, hs⟩ | ⟨w, i, -, hrest, -, hd, hs⟩ | ⟨w, e, -, -, -, -, hs⟩ |
    ⟨i, -, -, hd, hs⟩ | ⟨e, -, hrest, hd, hs⟩ := step_cases s
  · exact ⟨_, hs⟩
  · exact ⟨_, hs⟩
  · rw [hs]
    exact exec_command_next (s := s.tick) (s.atRest_iff.1 hrest).1 (fun hg => hfill.1 (.inl hg)) hd
  · exact ⟨_, hs⟩
  · rw [hs]
    exact exec_uop_next (s := s.tick) hfill hw hd
  · obtain ⟨i, hi⟩ := hseq.exists_uop hrest
    simp [hi] at hd

/-! ### The byte counter -/

/-- The three kinds of step that write `TOTAL`, and what every other kind is not. -/
theorem StepTo.total_cases {s t : State} (h : StepTo s t) :
    (s.sample.rst = true ∧ t.TOTAL = 0) ∨
    (s.sample.rst = false ∧ (s.STAGE = Stage.idle ∨ s.STAGE = Stage.final) ∧
      s.sample.cmd = some newWord ∧ t.TOTAL = 0) ∨
    (s.sample.rst = false ∧ s.STAGE = Stage.idle ∧ (∃ b, s.sample.cmd = some (feedWord b)) ∧
      t.TOTAL = s.TOTAL + 1) ∨
    (s.sample.rst = false ∧ t.TOTAL = s.TOTAL ∧
      (s.STAGE = Stage.idle ∨ s.STAGE = Stage.final → s.sample.cmd ≠ some newWord) ∧
      (s.STAGE = Stage.idle → ∀ b, s.sample.cmd ≠ some (feedWord b))) := by
  cases h with
  | reset hr => exact .inl ⟨hr, rfl⟩
  | new hr hg ht hc => exact .inr (.inl ⟨hr, hg, hc, rfl⟩)
  | feed b hr hg ht hc hl => exact .inr (.inr (.inl ⟨hr, hg, ⟨b, hc⟩, rfl⟩))
  | finalize hr hg ht hc =>
    exact .inr (.inr (.inr ⟨hr, rfl, by simp [hc, finalizeWord_ne_newWord],
      by simp [hc, (feedWord_ne_finalizeWord _).symm]⟩))
  | stay r hr hrest hnew hidle =>
    exact .inr (.inr (.inr ⟨hr, rfl, fun _ => hnew, fun hg => (hidle hg).2⟩))
  | pad b hr hg ht hl =>
    obtain ⟨hg, -⟩ | ⟨hg, -⟩ := hg <;> exact .inr (.inr (.inr ⟨hr, rfl, by simp [hg], by simp [hg]⟩))
  | padlen hr hg | loadw v hr hg | sched hr hg | init hr hg | round hr hg | accum hr hg =>
    exact .inr (.inr (.inr ⟨hr, rfl, by simp [hg], by simp [hg]⟩))

/-- Settles O32: the clauses of the rule are the kinds of step that write `TOTAL`. -/
theorem totalCountsFedBytes : Obligations.TotalCountsFedBytes := by
  unfold Obligations.TotalCountsFedBytes
  intro s t h
  obtain ⟨hr, htot⟩ | ⟨hr, hg, hc, htot⟩ | ⟨hr, hg, ⟨b, hc⟩, htot⟩ | ⟨hr, htot, hnew, hfeed⟩ :=
    (stepTo_of_step h).total_cases
  · exact ⟨fun _ => htot, by simp [hr]⟩
  · have hbusy := s.busy_eq_false_iff.2 hg
    refine ⟨by simp [hr], fun _ => ⟨fun _ _ => htot, fun _ ⟨b, hb⟩ => ?_, ?_⟩⟩
    · exact absurd (Option.some.inj (hb.symm.trans hc)) (feedWord_ne_newWord b)
    · rintro (h | ⟨-, h⟩ | ⟨-, h, -⟩)
      · simp [hbusy] at h
      · exact absurd hc h
      · exact absurd hc h
  · have hbusy := s.busy_eq_false_iff.2 (.inl hg)
    refine ⟨by simp [hr], fun _ => ⟨fun _ hc' => ?_, fun _ _ => ?_, ?_⟩⟩
    · exact absurd (Option.some.inj (hc.symm.trans hc')) (feedWord_ne_newWord b)
    · rw [htot, toNat_add_one]
    · rintro (h | ⟨h, -⟩ | ⟨-, -, h⟩)
      · simp [hbusy] at h
      · simp [hg] at h
      · exact absurd ⟨b, hc⟩ h
  · refine ⟨by simp [hr], fun _ => ⟨fun hb hc => ?_, fun hg ⟨b, hc⟩ => ?_, fun _ => htot⟩⟩
    · exact absurd hc (hnew (s.busy_eq_false_iff.1 hb))
    · exact absurd hc (hfeed hg b)

end Sys2Proof.Machine
end

section
/-! The transition table of `SEQ` (R35). -/

namespace Sys2Proof.Machine

/-- From IDLE the successor is chosen by the new fill count and by FINALIZE; the buffer gets full
only by a FEED at 63. -/
theorem StepTo.seq_of_idle {s t : State} (h : StepTo s t) (hr : s.sample.rst = false)
    (hg : s.STAGE = Stage.idle) (hn : s.BUFLEN.val ≤ 63) :
    t.seq = (if t.BUFLEN.val = 64 then Stage.loadw ++ 0#6
      else if s.sample.cmd = some finalizeWord then Stage.padmark ++ 0#6
      else Stage.idle ++ 0#6) ∧
    (t.BUFLEN.val = 64 ↔
      s.BUFLEN.val = 63 ∧ ∃ b, s.sample.cmd = some (feedWord b)) := by
  have hn64 : s.BUFLEN.val ≠ 64 := by omega
  cases h with
  | reset hr' => simp [hr] at hr'
  | new _ _ ht hc =>
    simp [State.seq, hc, finalizeWord_ne_newWord.symm, (feedWord_ne_newWord _).symm]
  | feed b _ _ ht hc hl =>
    by_cases h63 : s.BUFLEN.val = 63 <;> simp [State.seq, h63, hc, feedWord_ne_finalizeWord]
  | finalize _ _ ht hc =>
    simp [State.seq, hc, hn64, (feedWord_ne_finalizeWord _).symm]
  | stay r _ hrest hnew hidle =>
    obtain ⟨hfin, hfeed⟩ := hidle hg
    simp [State.seq, hg, (s.atRest_iff.1 hrest).2, hfin, hfeed, hn64]
  | pad b _ hg' => simp [hg] at hg'
  | padlen _ hg' | loadw v _ hg' | sched _ hg' | init _ hg' | round _ hg' | accum _ hg' =>
    simp [hg] at hg'

/-- From FINAL only NEW leads away. -/
theorem StepTo.seq_of_final {s t : State} (h : StepTo s t) (hr : s.sample.rst = false)
    (hg : s.STAGE = Stage.final) :
    t.seq = if s.sample.cmd = some newWord then Stage.idle ++ 0#6 else Stage.final ++ 0#6 := by
  cases h with
  | reset hr' => simp [hr] at hr'
  | new _ _ ht hc => simp [State.seq, hc]
  | stay r _ hrest hnew hidle => simp [State.seq, hg, (s.atRest_iff.1 hrest).2, hnew]
  | pad b _ hg' => simp [hg] at hg'
  | feed b _ hg' | finalize _ hg' | padlen _ hg' | loadw v _ hg' | sched _ hg' | init _ hg'
  | round _ hg' | accum _ hg' => simp [hg] at hg'

/-- The part of the table that a busy engine follows. -/
theorem StepTo.seq_of_busy {s t : State} (h : StepTo s t) (hr : s.sample.rst = false) :
    (s.STAGE = Stage.padmark ∨ s.STAGE = Stage.padfill → t.seq =
      if t.BUFLEN.val = 64 then Stage.loadw ++ 0#6
      else if t.BUFLEN.val = 56 then Stage.padlen ++ 0#6 else Stage.padfill ++ 0#6) ∧
    (s.STAGE = Stage.padlen → t.seq = Stage.loadw ++ 0#6) ∧
    (s.STAGE = Stage.loadw → t.seq =
      if s.T = 15#6 then Stage.sched ++ 16#6 else Stage.loadw ++ (s.T + 1#6)) ∧
    (s.STAGE = Stage.sched → t.seq =
      if s.T = 63#6 then Stage.init ++ 0#6 else Stage.sched ++ (s.T + 1#6)) ∧
    (s.STAGE = Stage.init → t.seq = Stage.round ++ 0#6) ∧
    (s.STAGE = Stage.round → t.seq =
      if s.T = 63#6 then Stage.accum ++ 0#6 else Stage.round ++ (s.T + 1#6)) ∧
    (s.STAGE = Stage.accum → t.seq =
      if s.LAST = true then Stage.final ++ 0#6
      else if s.FIN = true then Stage.padfill ++ 0#6 else Stage.idle ++ 0#6) := by
  cases h with
  | reset hr' => simp [hr] at hr'
  | new _ hg => obtain hg | hg := hg <;> simp [hg]
  | feed b _ hg | finalize _ hg => simp [hg]
  | stay r _ hrest =>
    obtain ⟨hg | hg, -⟩ := s.atRest_iff.1 hrest <;> simp [hg]
  | pad b _ hg ht hl =>
    by_cases h64 : s.BUFLEN.val = 63
    · obtain ⟨hg, -⟩ | ⟨hg, -⟩ := hg <;> simp [hg, State.seq, h64]
    · by_cases h56 : s.BUFLEN.val = 55 <;> obtain ⟨hg, -⟩ | ⟨hg, -⟩ := hg <;>
        simp [hg, State.seq, h64, h56]
  | padlen _ hg | init _ hg => simp [hg, State.seq]
  | loadw v _ hg => by_cases h15 : s.T = 15#6 <;> simp [hg, State.seq, h15]
  | sched _ hg | round _ hg => by_cases h63 : s.T = 63#6 <;> simp [hg, State.seq, h63]
  | accum _ hg => cases s.LAST <;> cases s.FIN <;> simp [hg, State.seq]

/-- Settles O30: the table is the successor at rest and the successor of each busy stage. -/
theorem sequencerFollowsTransitionTable : Obligations.SequencerFollowsTransitionTable := by
  unfold Obligations.SequencerFollowsTransitionTable
  rintro s t ⟨-, ⟨fidle, -⟩, -, -, -, -⟩ hs
  have h := stepTo_of_step hs
  refine ⟨fun hr => ?_, fun hr => ⟨fun hg => (h.seq_of_idle hr hg (fidle (.inl hg))).1,
    fun hg => (h.seq_of_idle hr hg (fidle (.inl hg))).2, h.seq_of_final hr, h.seq_of_busy hr⟩⟩
  rw [step_of_reset hr] at hs
  cases hs
  rfl

end Sys2Proof.Machine
end

section
/-! The constant tables are roots of the first primes (R30, R150, log entry 7). -/

namespace Sys2Proof.Machine

/-! ### The first 64 primes -/

/-- The first 64 primes, in order. -/
def firstPrimes : List Nat :=
  [2, 3, 5, 7, 11, 13, 17, 19, 23, 29, 31, 37, 41, 43, 47, 53,
   59, 61, 67, 71, 73, 79, 83, 89, 97, 101, 103, 107, 109, 113, 127, 131,
   137, 139, 149, 151, 157, 163, 167, 173, 179, 181, 191, 193, 197, 199, 211, 223,
   227, 229, 233, 239, 241, 251, 257, 263, 269, 271, 277, 281, 283, 293, 307, 311]

/-- Below `18 ^ 2` a composite number has a divisor below 18. -/
theorem prime_iff_of_lt {n : Nat} (hn : n < 18 ^ 2) :
    n.Prime ↔ 2 ≤ n ∧ ∀ d < 18, 2 ≤ d → d ∣ n → d = n := by
  constructor
  · intro h
    exact ⟨h.two_le, fun d _ hd hdvd => (h.eq_one_or_self_of_dvd d hdvd).resolve_left (by omega)⟩
  · rintro ⟨h2, h⟩
    refine Nat.prime_def_le_sqrt.2 ⟨h2, fun d hd hsqrt hdvd => ?_⟩
    have hlt : n.sqrt < 18 := Nat.sqrt_lt'.2 hn
    have heq := h d (by omega) hd hdvd
    have hself := Nat.sqrt_lt_self h2
    omega

theorem filter_prime_range : (List.range 312).filter (fun n => decide n.Prime) = firstPrimes := by
  have h : (List.range 312).filter (fun n => decide n.Prime) = (List.range 312).filter
      fun n => decide (2 ≤ n ∧ ∀ d < 18, 2 ≤ d → d ∣ n → d = n) :=
    List.filter_congr fun n hn => decide_eq_decide.2 <|
      prime_iff_of_lt ((List.mem_range.1 hn).trans (by decide))
  rw [h]
  decide +kernel

theorem count_eq_length_filter_range (n : Nat) :
    Nat.count Nat.Prime n = ((List.range n).filter fun k => decide k.Prime).length := by
  induction n with
  | zero => rfl
  | succ n ih => by_cases hn : n.Prime <;> simp [Nat.count_succ, List.range_succ, ih, hn]

/-- A prime with fewer than 64 primes below it is one of the first 64. -/
theorem getElem?_firstPrimes {p : Nat} (hp : p.Prime) (h : Nat.count Nat.Prime p < 64) :
    firstPrimes[Nat.count Nat.Prime p]? = some p := by
  have hlt : p < 312 := by
    refine Nat.lt_of_count_lt_count (p := Nat.Prime) ?_
    rw [count_eq_length_filter_range 312, filter_prime_range]
    exact h
  obtain ⟨k, hk⟩ : ∃ k, 312 = p + (k + 1) := ⟨311 - p, by omega⟩
  rw [← filter_prime_range, hk, List.range_add, List.filter_append,
    List.getElem?_append_right (by rw [count_eq_length_filter_range]),
    count_eq_length_filter_range, Nat.sub_self, List.range_succ_eq_map]
  simp [hp]

/-! ### The roots -/

/-- With some integer part below 7 before it, `c` is the first 32 bits of the fractional part of the
`k`-th root of `p`. -/
abbrev IsRootWord (k p : Nat) (c : Word) : Prop :=
  ∃ a < 7, (a * 2 ^ 32 + c.toNat) ^ k ≤ p * 2 ^ (32 * k) ∧
    p * 2 ^ (32 * k) < (a * 2 ^ 32 + c.toNat + 1) ^ k

theorem IsRootWord.exists_root {k p : Nat} {c : Word} (h : IsRootWord k p c) :
    ∃ n, n ^ k ≤ p * 2 ^ (32 * k) ∧ p * 2 ^ (32 * k) < (n + 1) ^ k ∧ c.toNat = n % 2 ^ 32 := by
  obtain ⟨a, -, hle, hlt⟩ := h
  exact ⟨_, hle, hlt, by rw [Nat.mul_add_mod_self_right, Nat.mod_eq_of_lt c.isLt]⟩

theorem isRootWord_H0 : ∀ i : Fin 8, ∀ p ∈ firstPrimes[i.val]?, IsRootWord 2 p config.H0[i] := by
  decide +kernel

theorem isRootWord_K : ∀ i : Fin 64, ∀ p ∈ firstPrimes[i.val]?, IsRootWord 3 p config.K[i] := by
  decide +kernel

/-- Settles O51: the primes in question are the first 64, and their roots are checked one by one. -/
theorem tablesAreRootsOfPrimes : Obligations.TablesAreRootsOfPrimes := by
  unfold Obligations.TablesAreRootsOfPrimes
  exact fun p hp =>
    ⟨fun h => (isRootWord_H0 ⟨_, h⟩ p (getElem?_firstPrimes hp (h.trans (by decide)))).exists_root,
      fun h => (isRootWord_K ⟨_, h⟩ p (getElem?_firstPrimes hp h)).exists_root⟩

end Sys2Proof.Machine
end

section
/-! The digest, byte by byte, in `H` and on the port (R54, R172). -/

namespace Sys2Proof.Machine

/-! ### The bytes -/

/-- A list glued from pieces of one length `c` holds item `j` of piece `i` at index `c * i + j`. -/
theorem getElem?_flatMap_of_length {α β : Type} {f : α → List β} {c : Nat}
    (hf : ∀ a, (f a).length = c) (l : List α) (i : Nat) {j : Nat} (hj : j < c) :
    (l.flatMap f)[c * i + j]? = l[i]?.bind fun a => (f a)[j]? := by
  induction l generalizing i with
  | nil => simp
  | cons a l ih =>
    rw [List.flatMap_cons]
    cases i with
    | zero => simp [List.getElem?_append_left, hf, hj]
    | succ i =>
      have hle : c ≤ c * (i + 1) + j := by rw [Nat.mul_succ]; omega
      have hsub : c * (i + 1) + j - c = c * i + j := by rw [Nat.mul_succ]; omega
      rw [List.getElem?_append_right (by rw [hf]; exact hle), hf, hsub, ih,
        List.getElem?_cons_succ]

@[simp] theorem length_be32Bytes (v : Word) : (be32Bytes v).length = 4 := rfl

/-- Byte `j` of a word, counted from the most significant (R172). -/
theorem getElem?_be32Bytes (v : Word) {j : Nat} (hj : j < 4) :
    (be32Bytes v)[j]? = some (v.extractLsb' (24 - 8 * j) 8) := by
  interval_cases j <;> rfl

theorem length_digest (h : Vector Word 8) : (digest h).length = 32 := by
  simp [digest, List.length_flatMap]

/-- Byte `m` of a digest is byte `m mod 4` of word `m / 4` (R54). -/
theorem getElem?_digest (h : Vector Word 8) {m : Nat} (hm : m < 32) :
    (digest h)[m]? = some (h[m / 4].extractLsb' (24 - 8 * (m % 4)) 8) := by
  have hbyte := getElem?_flatMap_of_length length_be32Bytes h.toList (m / 4)
    (Nat.mod_lt m (by decide))
  rw [Nat.div_add_mod] at hbyte
  rw [digest, hbyte, Vector.getElem?_toList, Vector.getElem?_eq_getElem (by omega),
    Option.bind_some, getElem?_be32Bytes _ (Nat.mod_lt m (by decide))]

/-! ### The port -/

/-- A field that starts at offset `off` of word `k`, counted from the low end, lies in the appended
word when `k` is 0 and one word lower in the rest otherwise. -/
theorem extractLsb'_append_word {n : Nat} (x : BitVec n) (w : Word) {off len : Nat} (k : Nat)
    (hoff : off + len ≤ 32) :
    (x ++ w).extractLsb' (32 * k + off) len =
      if k = 0 then w.extractLsb' off len else x.extractLsb' (32 * (k - 1) + off) len := by
  cases k with
  | zero => simpa using BitVec.extractLsb'_append_eq_of_add_le hoff
  | succ k =>
    rw [BitVec.extractLsb'_append_eq_of_le (by omega), if_neg k.succ_ne_zero]
    congr 1
    omega

/-- Word `i` of `H` stands on the port above the `7 - i` words that follow it (R36). -/
theorem State.extractLsb'_digestOut (s : State) {i off len : Nat} (hi : i < 8)
    (hoff : off + len ≤ 32) :
    s.digestOut.extractLsb' (32 * (7 - i) + off) len = s.H[i].extractLsb' off len := by
  unfold digestOut
  repeat rw [extractLsb'_append_word _ _ _ hoff]
  interval_cases i <;> simp

/-- Settles O49: byte `m` is a field of one word of `H`, and the port holds that word whole. -/
theorem digestBytesOnPort : Obligations.DigestBytesOnPort := by
  unfold Obligations.DigestBytesOnPort
  refine fun s => ⟨length_digest s.H, fun m hm => ⟨getElem?_digest s.H hm, ?_⟩⟩
  have hstart : 248 - 8 * m = 32 * (7 - m / 4) + (24 - 8 * (m % 4)) := by omega
  rw [hstart, s.extractLsb'_digestOut (by omega) (by omega)]
  exact getElem?_digest s.H hm

end Sys2Proof.Machine
end

section
/-! The two encodings (R70 to R78): decoding undoes encoding and the other way round, and with that the
rows of R71 and R77 by mask and match; then the words and the values of `SEQ` that select nothing, and
the port of a busy engine. -/

namespace Sys2Proof.Machine

/-! ### Decoding and encoding -/

/-- A value of `SEQ` is its `STAGE` over its `T`. -/
theorem seq_append_of_fields {w : SeqWord} {g : BitVec 4} {t : BitVec 6} (hg : seqStage w = g)
    (ht : seqT w = t) : CodeWord.seq (g ++ t) = .seq w := by
  rw [← hg, ← ht]
  exact congrArg CodeWord.seq BitVec.extractLsb'_append_extractLsb'

/-- The two upper bits of LOADW's `T`, which are zero, may be read with the stage or with the index. -/
theorem loadwWord_eq (t : BitVec 4) : 0b010000#6 ++ t = Stage.loadw ++ t.setWidth 6 := by
  revert t
  decide

theorem decode_encode {i : Instr} (h : i.wellFormed = true) : decode (encode i) = .instr i := by
  cases i with
  | new | finalize | padmark | padfill | padlen | init | accum => rfl
  | feed b => exact decodeCommand_feedWord b
  | loadw t =>
    have ht : t.toNat % 64 < 16 := by omega
    have hback : (t.setWidth 6).extractLsb' 0 4 = t := by
      rw [← BitVec.setWidth_eq_extractLsb' (by decide)]
      exact BitVec.setWidth_setWidth_of_le t (by decide)
    rw [encode, decode, loadwWord_eq]
    simp [decodeSeq, ht, hback]
  | sched t =>
    have ht : 16 ≤ t.toNat := of_decide_eq_true h
    simp [encode, decode, decodeSeq, ht]
  | round t => simp [encode, decode, decodeSeq]

theorem wellFormed_encode_of_decodeCommand {w : CmdWord} {i : Instr}
    (h : decodeCommand w = .instr i) : i.wellFormed = true ∧ encode i = .command w := by
  obtain ⟨rfl, rfl⟩ | ⟨b, rfl, rfl⟩ | ⟨rfl, rfl⟩ := word_of_decodeCommand h <;> exact ⟨rfl, rfl⟩

theorem wellFormed_encode_of_decodeSeq {w : SeqWord} {i : Instr}
    (h : decodeSeq w = .instr i) : i.wellFormed = true ∧ encode i = .seq w := by
  obtain ⟨rfl, hg, ht⟩ | ⟨rfl, hg, ht⟩ | ⟨rfl, hg, ht⟩ | ⟨rfl, hg, ht⟩ | ⟨rfl, hg, ht⟩ |
    ⟨rfl, hg, ht⟩ | ⟨rfl, hg⟩ | ⟨rfl, hg, ht⟩ := decodeSeq_cases h
  · exact ⟨rfl, seq_append_of_fields hg ht⟩
  · exact ⟨rfl, seq_append_of_fields hg ht⟩
  · exact ⟨rfl, seq_append_of_fields hg ht⟩
  · refine ⟨rfl, ?_⟩
    rw [encode, loadwWord_eq, setWidth_extractLsb'_of_lt ht]
    exact seq_append_of_fields hg rfl
  · exact ⟨decide_eq_true ht, seq_append_of_fields hg rfl⟩
  · exact ⟨rfl, seq_append_of_fields hg ht⟩
  · exact ⟨rfl, seq_append_of_fields hg rfl⟩
  · exact ⟨rfl, seq_append_of_fields hg ht⟩

theorem wellFormed_encode_of_decode {w : CodeWord} {i : Instr} (h : decode w = .instr i) :
    i.wellFormed = true ∧ encode i = w := by
  cases w with
  | command w => exact wellFormed_encode_of_decodeCommand h
  | seq w => exact wellFormed_encode_of_decodeSeq h

/-- What a word decodes to is the one well-formed instruction that it encodes. -/
theorem decode_eq_instr_iff {w : CodeWord} {i : Instr} :
    decode w = .instr i ↔ i.wellFormed = true ∧ encode i = w :=
  ⟨wellFormed_encode_of_decode, fun ⟨hwf, he⟩ => he ▸ decode_encode hwf⟩

/-- Settles O2: one direction by the constructors of `Instr`, the other by the rows that a decoder has
in each format. -/
theorem decodeAndEncodeAgree : Obligations.DecodeAndEncodeAgree := by
  unfold Obligations.DecodeAndEncodeAgree
  exact ⟨fun _ => decode_encode, fun _ _ => wellFormed_encode_of_decode⟩

/-- Settles O1: each word is the encoding of its instruction. -/
theorem specWordsDecode : Obligations.SpecWordsDecode := by
  unfold Obligations.SpecWordsDecode
  exact ⟨decode_encode (i := .new) rfl, decode_encode (i := .feed 0x61) rfl,
    decode_encode (i := .finalize) rfl, decode_encode (i := .padmark) rfl,
    decode_encode (i := .loadw 15) rfl, decode_encode (i := .sched 16) rfl,
    decode_encode (i := .round 63) rfl, decode_encode (i := .accum) rfl⟩

/-! ### Masks -/

/-- A word is a fixed field over an operand when it meets the mask and match of the field, and the
operand is read out of the low bits. -/
theorem append_eq_iff_and_mask {m n : Nat} (g : BitVec m) (t : BitVec n) (w : BitVec (m + n)) :
    g ++ t = w ↔ w &&& (BitVec.allOnes m ++ 0#n) = g ++ 0#n ∧ t = w.setWidth n := by
  constructor
  · rintro rfl
    rw [BitVec.and_append, BitVec.and_allOnes, BitVec.and_zero, BitVec.setWidth_append_eq_right]
    exact ⟨rfl, rfl⟩
  · rintro ⟨hg, rfl⟩
    have hfield : w.extractLsb' n m = g := by
      simpa [BitVec.extractLsb'_and, BitVec.extractLsb'_append_eq_left] using
        congrArg (BitVec.extractLsb' n m) hg
    rw [← hfield, BitVec.setWidth_eq_extractLsb' (Nat.le_add_left n m)]
    exact BitVec.extractLsb'_append_extractLsb'

/-- The mask of a row without an operand keeps the whole word. -/
theorem eq_iff_and_allOnes {n : Nat} (c w : BitVec n) : c = w ↔ w &&& BitVec.allOnes n = c := by
  rw [BitVec.and_allOnes, eq_comm]

/-! ### Command words by row (R71) -/

theorem decodeCommand_eq_new_iff {w : CmdWord} : decodeCommand w = .instr .new ↔ newWord = w :=
  (decode_eq_instr_iff (w := .command w)).trans (by simp [Instr.wellFormed, encode, newWord])

theorem decodeCommand_eq_feed_iff {w : CmdWord} {b : Byte} :
    decodeCommand w = .instr (.feed b) ↔ feedWord b = w :=
  (decode_eq_instr_iff (w := .command w)).trans (by simp [Instr.wellFormed, encode, feedWord])

theorem decodeCommand_eq_finalize_iff {w : CmdWord} :
    decodeCommand w = .instr .finalize ↔ finalizeWord = w :=
  (decode_eq_instr_iff (w := .command w)).trans (by simp [Instr.wellFormed, encode, finalizeWord])

theorem eq_illegal_of_decodeCommand {w : CmdWord} {e : DecodeError}
    (h : decodeCommand w = .reject e) : e = .illegalCommand w := by
  unfold decodeCommand at h
  split_ifs at h
  cases h
  rfl

/-- A word is refused when it is none of the three commands (R73). -/
theorem decodeCommand_eq_illegal_iff {w : CmdWord} :
    decodeCommand w = .reject (.illegalCommand w) ↔
      decodeCommand w ≠ .instr .new ∧ (¬ ∃ b, decodeCommand w = .instr (.feed b)) ∧
        decodeCommand w ≠ .instr .finalize := by
  constructor
  · intro h
    simp [h]
  · rintro ⟨hnew, hfeed, hfin⟩
    cases hd : decodeCommand w with
    | instr i =>
      obtain ⟨rfl, -⟩ | ⟨b, rfl, -⟩ | ⟨rfl, -⟩ := word_of_decodeCommand hd
      · exact absurd hd hnew
      · exact absurd ⟨b, hd⟩ hfeed
      · exact absurd hd hfin
    | reject e => rw [eq_illegal_of_decodeCommand hd]

theorem decodeCommand_eq_feed_iff_and_mask {w : CmdWord} {b : Byte} :
    decodeCommand w = .instr (.feed b) ↔ w &&& 0xF00 = 0x200 ∧ b = w.setWidth 8 :=
  decodeCommand_eq_feed_iff.trans (append_eq_iff_and_mask 0x2#4 b w)

theorem feedWord_injective : Function.Injective feedWord := fun _ _ h =>
  (BitVec.append_right_inj 0x2#4).1 h

theorem card_words (n : Nat) : Fintype.card (BitVec n) = 2 ^ n := by
  rw [← FinEnum.card_eq_fintypeCard, FinEnum.card_bitVec]

section

open Finset

theorem card_decodeCommand_new : #{w : CmdWord | decodeCommand w = .instr .new} = 1 := by
  simp [decodeCommand_eq_new_iff, filter_eq]

theorem card_decodeCommand_finalize : #{w : CmdWord | decodeCommand w = .instr .finalize} = 1 := by
  simp [decodeCommand_eq_finalize_iff, filter_eq]

/-- One FEED for each byte. -/
theorem card_decodeCommand_feed :
    #{w : CmdWord | ∃ b, decodeCommand w = .instr (.feed b)} = 256 := by
  have himage : univ.filter (fun w : CmdWord => ∃ b, decodeCommand w = .instr (.feed b)) =
      univ.image feedWord := by
    ext w
    simp [decodeCommand_eq_feed_iff]
  rw [himage, card_image_of_injective _ feedWord_injective, card_univ]
  exact card_words 8

/-- The words of the three rows, which exclude each other. -/
theorem card_decodeCommand_legal : #{w : CmdWord | decodeCommand w = .instr .new ∨
    (∃ b, decodeCommand w = .instr (.feed b)) ∨ decodeCommand w = .instr .finalize} =
    1 + (256 + 1) := by
  rw [filter_or, filter_or, card_union_of_disjoint, card_union_of_disjoint,
    card_decodeCommand_new, card_decodeCommand_feed, card_decodeCommand_finalize]
  · rw [disjoint_filter]
    rintro w - ⟨b, hfeed⟩ hfin
    simp [hfeed] at hfin
  · rw [← filter_or, disjoint_filter]
    rintro w - hnew (⟨b, hfeed⟩ | hfin)
    · simp [hnew] at hfeed
    · simp [hnew] at hfin

/-- The refused words are what the rows leave of the 4096. -/
theorem card_decodeCommand_illegal :
    #{w : CmdWord | decodeCommand w = .reject (.illegalCommand w)} = 3838 := by
  have hcompl : univ.filter (fun w : CmdWord => decodeCommand w = .reject (.illegalCommand w)) =
      (univ.filter fun w : CmdWord => decodeCommand w = .instr .new ∨
        (∃ b, decodeCommand w = .instr (.feed b)) ∨ decodeCommand w = .instr .finalize)ᶜ := by
    ext w
    simp only [mem_compl, mem_filter_univ, decodeCommand_eq_illegal_iff, not_or, ne_eq]
  rw [hcompl, card_compl, card_decodeCommand_legal, card_words]
  norm_num

end

/-- Settles O3: each row is the equation of its word, and the counts are those of the rows. -/
theorem commandRowsByMaskAndMatch : Obligations.CommandRowsByMaskAndMatch := by
  unfold Obligations.CommandRowsByMaskAndMatch
  refine ⟨fun w => ?_, card_decodeCommand_new, card_decodeCommand_feed,
    card_decodeCommand_finalize, card_decodeCommand_illegal⟩
  have hnew : decodeCommand w = .instr .new ↔ w &&& 0xFFF = 0x100 :=
    decodeCommand_eq_new_iff.trans (eq_iff_and_allOnes _ w)
  have hfin : decodeCommand w = .instr .finalize ↔ w &&& 0xFFF = 0x300 :=
    decodeCommand_eq_finalize_iff.trans (eq_iff_and_allOnes _ w)
  refine ⟨hnew, fun b => decodeCommand_eq_feed_iff_and_mask, hfin, ?_⟩
  simp only [decodeCommand_eq_illegal_iff, ne_eq, hnew, hfin, decodeCommand_eq_feed_iff_and_mask,
    exists_and_left, exists_eq, and_true]

/-! ### Values of `SEQ` by row (R77) -/

theorem decodeSeq_eq_instr_iff {w : SeqWord} {i : Instr} :
    decodeSeq w = .instr i ↔ i.wellFormed = true ∧ encode i = .seq w :=
  decode_eq_instr_iff (w := .seq w)

/-- A row without an operand selects its micro-operation at one value of `SEQ`. -/
theorem decodeSeq_eq_instr_iff_and_mask {i : Instr} {c : SeqWord} (w : SeqWord)
    (hwf : i.wellFormed = true) (hc : encode i = .seq c) :
    decodeSeq w = .instr i ↔ w &&& 0x3FF = c := by
  rw [decodeSeq_eq_instr_iff, hc, CodeWord.seq.injEq]
  exact (and_iff_right hwf).trans (eq_iff_and_allOnes c w)

theorem decodeSeq_eq_restSeq_iff {w : SeqWord} :
    decodeSeq w = .reject (.restSeq w) ↔
      (seqStage w = Stage.idle ∨ seqStage w = Stage.final) ∧ seqT w = 0#6 := by
  constructor
  · intro h
    unfold decodeSeq at h
    split_ifs at h with _ _ _ _ _ _ _ _ hrest
    · exact hrest
    · cases h
  · rintro ⟨hg | hg, ht⟩ <;> simp [decodeSeq, hg, ht]

/-- Settles O4: each row is the equation of its word, with and without an operand. -/
theorem seqRowsByMaskAndMatch : Obligations.SeqRowsByMaskAndMatch := by
  unfold Obligations.SeqRowsByMaskAndMatch
  intro w
  refine ⟨decodeSeq_eq_instr_iff_and_mask w rfl rfl, decodeSeq_eq_instr_iff_and_mask w rfl rfl,
    decodeSeq_eq_instr_iff_and_mask w rfl rfl, fun t => ?_, fun t => ?_,
    decodeSeq_eq_instr_iff_and_mask w rfl rfl, fun t => ?_,
    decodeSeq_eq_instr_iff_and_mask w rfl rfl, ?_⟩
  · rw [decodeSeq_eq_instr_iff, encode, CodeWord.seq.injEq]
    exact (and_iff_right rfl).trans (append_eq_iff_and_mask 0b010000#6 t w)
  · rw [decodeSeq_eq_instr_iff, encode, CodeWord.seq.injEq, append_eq_iff_and_mask 0b0101#4 t w]
    exact and_left_comm.trans (and_congr_right' (and_congr_left' decide_eq_true_iff))
  · rw [decodeSeq_eq_instr_iff, encode, CodeWord.seq.injEq]
    exact (and_iff_right rfl).trans (append_eq_iff_and_mask 0b0111#4 t w)
  · rw [decodeSeq_eq_restSeq_iff]
    constructor
    · rintro ⟨hg | hg, ht⟩
      · exact .inl (CodeWord.seq.inj (seq_append_of_fields hg ht)).symm
      · exact .inr (CodeWord.seq.inj (seq_append_of_fields hg ht)).symm
    · rintro (rfl | rfl) <;> decide

/-! ### Reserved values of `SEQ` (R78) -/

/-- A value of `SEQ` that selects a micro-operation is legal. -/
theorem State.seqLegal_of_decodeSeq {s : State} {i : Instr} (h : decodeSeq s.seq = .instr i) :
    s.SeqLegal := by
  have hcases := decodeSeq_cases h
  simp only [seqStage_seq, seqT_seq] at hcases
  rw [State.SeqLegal]
  tauto

/-- The rest values of `SEQ` are legal. -/
theorem State.seqLegal_of_atRest {s : State} (h : s.atRest = true) : s.SeqLegal := by
  obtain ⟨hg, ht⟩ := s.atRest_iff.1 h
  rw [State.SeqLegal]
  tauto

/-- Without reset, a step from a value of `SEQ` outside the table of R34 stops. -/
theorem step_of_not_seqLegal {s : State} (hr : s.sample.rst = false) (h : ¬ s.SeqLegal) :
    step s = .fault .reservedSeq := by
  obtain ⟨hr', -⟩ | ⟨-, hrest, -⟩ | ⟨_, _, -, hrest, -⟩ | ⟨_, _, -, hrest, -⟩ | ⟨i, -, -, hd, -⟩ |
    ⟨_, -, -, -, hs⟩ := step_cases s
  · simp [hr] at hr'
  · exact absurd (State.seqLegal_of_atRest hrest) h
  · exact absurd (State.seqLegal_of_atRest hrest) h
  · exact absurd (State.seqLegal_of_atRest hrest) h
  · exact absurd (State.seqLegal_of_decodeSeq hd) h
  · exact hs

/-- Settles O5: each of the reserved values is outside the table of R34. -/
theorem reservedSeqHasNoStep : Obligations.ReservedSeqHasNoStep := by
  unfold Obligations.ReservedSeqHasNoStep
  refine ⟨fun s hr h => step_of_not_seqLegal hr ?_, fun s t ht => if_pos ht⟩
  rintro (⟨hg, ht⟩ | ⟨hg, ht⟩ | hg | ⟨ht, hg⟩)
  · exact absurd ht (by simpa [hg] using h)
  · exact absurd ht (by simpa [hg] using h)
  · simp [hg] at h
  · rcases hg with hg | hg | hg | hg | hg | hg | hg <;> simp [hg, ht] at h

/-! ### A busy engine (R75, R220) -/

theorem State.busy_iff (s : State) :
    s.busy = true ↔ s.STAGE ≠ Stage.idle ∧ s.STAGE ≠ Stage.final := by
  simp [State.busy]

theorem State.atRest_of_busy {s : State} (h : s.busy = true) : s.atRest = false := by
  obtain ⟨hidle, hfinal⟩ := s.busy_iff.1 h
  by_contra hrest
  obtain ⟨hg | hg, -⟩ := s.atRest_iff.1 (by simpa using hrest)
  · exact hidle hg
  · exact hfinal hg

/-- Settles O9: the stage of a busy engine is neither of those in which a command has an effect. -/
theorem busyEngineHoldsCommand : Obligations.BusyEngineHoldsCommand := by
  unfold Obligations.BusyEngineHoldsCommand
  intro s i hb hi
  obtain ⟨hidle, hfinal⟩ := s.busy_iff.1 hb
  obtain rfl | rfl | ⟨b, rfl⟩ := hi
  · exact if_neg (not_or_intro hidle hfinal)
  · exact (if_neg hfinal).trans (if_neg hidle)
  · exact (if_neg hfinal).trans (if_neg hidle)

/-- A busy step runs the micro-operation that `SEQ` selects, whatever is on the port. -/
theorem step_of_busy {s : State} (hr : s.sample.rst = false) (hb : s.busy = true) :
    step s = runUop s.tick := by
  simp [step, engineStep, hr, State.atRest_of_busy hb]

/-- A busy step uses up one input sample and gives no response. -/
theorem StepTo.resp_inputs_of_busy {s t : State} (h : StepTo s t) (hr : s.sample.rst = false)
    (hb : s.busy = true) : t.resp = none ∧ t.inputs = s.inputs.tail := by
  obtain ⟨hidle, hfinal⟩ := s.busy_iff.1 hb
  cases h with
  | reset hr' => simp [hr] at hr'
  | new _ hg => exact absurd hg (not_or_intro hidle hfinal)
  | feed _ _ hg | finalize _ hg => exact absurd hg hidle
  | stay _ _ hrest => simp [State.atRest_of_busy hb] at hrest
  | pad | padlen | loadw | sched | init | round | accum => exact ⟨rfl, rfl⟩

/-- Settles O24: a busy step runs `SEQ`'s micro-operation from the state with the sample used up. -/
theorem busyEngineIgnoresPort : Obligations.BusyEngineIgnoresPort := by
  unfold Obligations.BusyEngineIgnoresPort
  intro s c rest hb
  have hstep (c : Option CmdWord) :
      step { s with inputs := { rst := false, cmd := c } :: rest } =
        runUop { s with inputs := rest, resp := none } :=
    step_of_busy (s := { s with inputs := { rst := false, cmd := c } :: rest }) rfl hb
  refine ⟨(hstep c).trans (hstep none).symm, fun t h => ?_⟩
  obtain ⟨hresp, hinputs⟩ := (stepTo_of_step h).resp_inputs_of_busy rfl hb
  exact ⟨by rw [State.respValid, hresp]; rfl, hinputs⟩

end Sys2Proof.Machine
end

section
/-! Dead content (R96): two engines that differ only where no later step reads take the same steps.
Such an engine is written as the other with its `R`, `W`, `BUF` and `TOTAL` replaced, so that the
fields on which the two agree are the same terms. -/

namespace Sys2Proof.Machine

/-! ### The live content of a block routine (R39) -/

/-- Registers `r` and a schedule file `w` agree with those of `s` wherever the block routine, from
the stage of `s` on, still reads. -/
def State.BlockLive (s : State) (r : Vector Word 8) (w : Vector Word 64) : Prop :=
  (s.STAGE = Stage.loadw ∨ s.STAGE = Stage.sched → ∀ j : BitVec 6, j < s.T → wAt s.W j = wAt w j) ∧
  (s.STAGE = Stage.init → s.W = w) ∧
  (s.STAGE = Stage.round → s.R = r ∧ ∀ j : BitVec 6, s.T ≤ j → wAt s.W j = wAt w j) ∧
  (s.STAGE = Stage.accum → s.R = r)

/-- Outside the block routine, and at its entry, nothing of `W` and `R` is live. -/
theorem State.blockLive_of_entry {s : State} (ht : s.T = 0#6)
    (hg : s.STAGE ≠ Stage.init ∧ s.STAGE ≠ Stage.round ∧ s.STAGE ≠ Stage.accum)
    (r : Vector Word 8) (w : Vector Word 64) : s.BlockLive r w := by
  obtain ⟨hinit, hround, haccum⟩ := hg
  refine ⟨fun _ j hj => ?_, fun h => absurd h hinit, fun h => absurd h hround,
    fun h => absurd h haccum⟩
  rw [ht] at hj
  exact absurd hj (BitVec.not_lt_zero)

theorem State.liveEq_iff {s s' : State} :
    s.LiveEq s' ↔ ∃ r w m n, s' = { s with R := r, W := w, BUF := m, TOTAL := n } ∧
      s.TOTAL.toNat % 2 ^ 61 = n.toNat % 2 ^ 61 ∧
      (∀ j < s.BUFLEN.val, s.BUF.read j = m.read j) ∧ s.BlockLive r w := by
  constructor
  · rintro ⟨hH, hn, htot, hg, ht, hfin, hlast, hresp, hin, hbuf, hlive⟩
    exact ⟨s'.R, s'.W, s'.BUF, s'.TOTAL, by rw [hH, hn, hg, ht, hfin, hlast, hresp, hin], htot,
      hbuf, hlive⟩
  · rintro ⟨r, w, m, n, rfl, htot, hbuf, hlive⟩
    exact ⟨rfl, rfl, htot, rfl, rfl, rfl, rfl, rfl, rfl, hbuf, hlive⟩

/-! ### Reads and writes of the live content -/

/-- The same byte appended to two buffers with the same bytes below the fill count. -/
theorem Memory.read_write_congr {m m' : Memory} {n : Nat} (b : Byte)
    (h : ∀ j < n, m.read j = m'.read j) :
    ∀ j < n + 1, (m.write n b).read j = (m'.write n b).read j := by
  intro j hj
  rw [Memory.read_write, Memory.read_write]
  split
  · rfl
  · exact h j (by omega)

/-- The same bytes written behind two buffers with the same bytes below them. -/
theorem Memory.read_writeAll_congr {m m' : Memory} {n : Nat} (bs : List Byte)
    (h : ∀ j < n, m.read j = m'.read j) :
    ∀ j < n + bs.length, (m.writeAll n bs).read j = (m'.writeAll n bs).read j := by
  intro j hj
  rw [Memory.read_writeAll, Memory.read_writeAll]
  split
  · rfl
  · exact h j (by omega)

theorem Memory.readByte_congr {m m' : Memory} {j : Nat} (h : m.read j = m'.read j) :
    m.readByte j = m'.readByte j := by
  rw [Memory.readByte, Memory.readByte, h]

theorem Memory.read32_congr {m m' : Memory} {a : Nat}
    (h : ∀ i < 4, m.read (a + i) = m'.read (a + i)) : m.read32 a = m'.read32 a := by
  have h0 : m.readByte a = m'.readByte a := Memory.readByte_congr (h 0 (by decide))
  simp only [Memory.read32, h0,
    Memory.readByte_congr (h 1 (by decide)), Memory.readByte_congr (h 2 (by decide)),
    Memory.readByte_congr (h 3 (by decide))]

/-- The length field drops the top three bits of the byte counter (R26). -/
theorem lengthField_congr {n n' : BitVec 64} (h : n.toNat % 2 ^ 61 = n'.toNat % 2 ^ 61) :
    lengthField n = lengthField n' := by
  apply BitVec.eq_of_toNat_eq
  rw [lengthField, lengthField, BitVec.toNat_mul, BitVec.toNat_mul,
    show (8 : BitVec 64).toNat = 8 from rfl]
  omega

/-- Words of two schedule files that agree below `t` agree up to `t` after the same write there. -/
theorem wAt_wSet_congr {w w' : Vector Word 64} {t : BitVec 6} (v : Word)
    (h : ∀ j : BitVec 6, j < t → wAt w j = wAt w' j) :
    ∀ j : BitVec 6, j ≤ t → wAt (wSet w t v) j = wAt (wSet w' t v) j := by
  intro j hj
  rw [wAt_wSet, wAt_wSet]
  split
  · rfl
  · exact h j (by bv_omega)

section
variable {s s' t t' : State}

/-! ### What two such engines show alike -/

theorem State.LiveEq.tick (h : s.LiveEq s') : s.tick.LiveEq s'.tick := by
  obtain ⟨r, w, m, n, rfl, htot, hbuf, hlive⟩ := State.liveEq_iff.1 h
  exact State.liveEq_iff.2 ⟨r, w, m, n, rfl, htot, hbuf, hlive⟩

theorem State.LiveEq.raise (h : s.LiveEq s') (e : Exn) : (s.raise e).LiveEq (s'.raise e) := by
  obtain ⟨r, w, m, n, rfl, htot, hbuf, hlive⟩ := State.liveEq_iff.1 h
  exact State.liveEq_iff.2 ⟨r, w, m, n, rfl, htot, hbuf, hlive⟩

/-- The same sample, and the same choice of `SEQ`. -/
theorem State.LiveEq.control (h : s.LiveEq s') :
    s'.sample = s.sample ∧ s'.seq = s.seq ∧ s'.atRest = s.atRest := by
  obtain ⟨r, w, m, n, rfl, -⟩ := State.liveEq_iff.1 h
  exact ⟨rfl, rfl, rfl⟩

theorem State.LiveEq.stage_eq (h : s.LiveEq s') : s'.STAGE = s.STAGE := by
  obtain ⟨r, w, m, n, rfl, -⟩ := State.liveEq_iff.1 h
  rfl

theorem State.LiveEq.buflen_eq (h : s.LiveEq s') : s'.BUFLEN = s.BUFLEN := by
  obtain ⟨r, w, m, n, rfl, -⟩ := State.liveEq_iff.1 h
  rfl

theorem State.LiveEq.observe_eq (h : s.LiveEq s') : s.observe = s'.observe := by
  obtain ⟨r, w, m, n, rfl, -⟩ := State.liveEq_iff.1 h
  rfl

/-! ### The commands -/

theorem State.LiveEq.execNew (h : s.LiveEq s')
    (hg : s.STAGE = Stage.idle ∨ s.STAGE = Stage.final) (ht : execNew s = .next t)
    (ht' : execNew s' = .next t') : t.LiveEq t' := by
  cases (execNew_of_rest hg).symm.trans ht
  cases (execNew_of_rest (by rwa [h.stage_eq])).symm.trans ht'
  obtain ⟨r, w, m, n, rfl, -⟩ := State.liveEq_iff.1 h
  exact State.liveEq_iff.2 ⟨r, w, m, 0, rfl, rfl, by simp,
    State.blockLive_of_entry rfl (by simp) r w⟩

theorem State.LiveEq.execFeed {b : Byte} (h : s.LiveEq s')
    (hg : s.STAGE = Stage.idle ∨ s.STAGE = Stage.final) (ht : execFeed b s = .next t)
    (ht' : execFeed b s' = .next t') : t.LiveEq t' := by
  have hg' := h.stage_eq
  rcases hg with hg | hg
  · by_cases hl : s.BUFLEN.val < 64
    · cases (execFeed_of_lt b hg hl).symm.trans ht
      cases (execFeed_of_lt b (hg'.trans hg) (by rwa [h.buflen_eq])).symm.trans ht'
      obtain ⟨r, w, m, n, rfl, htot, hbuf, -⟩ := State.liveEq_iff.1 h
      refine State.liveEq_iff.2 ⟨r, w, _, _, rfl, ?_, Memory.read_write_congr b hbuf,
        State.blockLive_of_entry rfl ?_ r w⟩
      · simp only [toNat_add_one]
        omega
      · simp only
        split_ifs <;> decide
    · cases (execFeed_of_full b hg (by omega)).symm.trans ht
  · cases (execFeed_of_final b hg).symm.trans ht
    cases (execFeed_of_final b (hg'.trans hg)).symm.trans ht'
    exact h.raise _

theorem State.LiveEq.execFinalize (h : s.LiveEq s')
    (hg : s.STAGE = Stage.idle ∨ s.STAGE = Stage.final) (ht : execFinalize s = .next t)
    (ht' : execFinalize s' = .next t') : t.LiveEq t' := by
  have hg' := h.stage_eq
  rcases hg with hg | hg
  · cases (execFinalize_of_idle hg).symm.trans ht
    cases (execFinalize_of_idle (hg'.trans hg)).symm.trans ht'
    obtain ⟨r, w, m, n, rfl, htot, hbuf, -⟩ := State.liveEq_iff.1 h
    exact State.liveEq_iff.2 ⟨r, w, m, n, rfl, htot, hbuf,
      State.blockLive_of_entry rfl (by simp) r w⟩
  · cases (execFinalize_of_final hg).symm.trans ht
    cases (execFinalize_of_final (hg'.trans hg)).symm.trans ht'
    exact h.raise _

/-- A command that runs in two such engines at rest leaves two such engines. -/
theorem State.LiveEq.exec_command (h : s.LiveEq s')
    (hg : s.STAGE = Stage.idle ∨ s.STAGE = Stage.final) {w : CmdWord} {i : Instr}
    (hd : decodeCommand w = .instr i) (ht : exec i s = .next t) (ht' : exec i s' = .next t') :
    t.LiveEq t' := by
  obtain ⟨rfl, -⟩ | ⟨b, rfl, -⟩ | ⟨rfl, -⟩ := word_of_decodeCommand hd
  · exact h.execNew hg ht ht'
  · exact h.execFeed hg ht ht'
  · exact h.execFinalize hg ht ht'

/-! ### The micro-operations -/

/-- A padding byte in two such engines. -/
theorem State.LiveEq.padByte (h : s.LiveEq s') {b : Byte} (ht : padByte b s = .next t)
    (ht' : padByte b s' = .next t') : t.LiveEq t' := by
  obtain ⟨r, w, m, n, rfl, htot, hbuf, -⟩ := State.liveEq_iff.1 h
  obtain ⟨-, rfl⟩ := padByte_next ht
  obtain ⟨-, rfl⟩ := padByte_next ht'
  refine State.liveEq_iff.2 ⟨r, w, _, n, rfl, htot, Memory.read_write_congr b hbuf,
    State.blockLive_of_entry rfl ?_ r w⟩
  simp only
  split_ifs <;> decide

theorem State.LiveEq.execPadlen (h : s.LiveEq s') (hn : s.BUFLEN.val = 56)
    (ht : execPadlen s = .next t) (ht' : execPadlen s' = .next t') : t.LiveEq t' := by
  obtain ⟨r, w, m, n, rfl, htot, hbuf, -⟩ := State.liveEq_iff.1 h
  cases ht
  cases ht'
  refine State.liveEq_iff.2 ⟨r, w, m.writeAll 56 (be64Bytes (lengthField n)), n, rfl, htot, ?_,
    State.blockLive_of_entry rfl (by simp) r w⟩
  rw [← lengthField_congr htot]
  exact Memory.read_writeAll_congr (be64Bytes _) (by rwa [hn] at hbuf)

theorem State.LiveEq.execLoadw (h : s.LiveEq s') (hg : s.STAGE = Stage.loadw)
    (hn : s.BUFLEN.val = 64) (hT : s.T.toNat < 16)
    (ht : execLoadw (s.T.extractLsb' 0 4) s = .next t)
    (ht' : execLoadw (s.T.extractLsb' 0 4) s' = .next t') : t.LiveEq t' := by
  obtain ⟨r, w, m, n, rfl, htot, hbuf, hW, -⟩ := State.liveEq_iff.1 h
  obtain ⟨v, hv, rfl⟩ := execLoadw_next ht
  obtain ⟨v', hv', rfl⟩ := execLoadw_next ht'
  rw [toNat_extractLsb'_of_lt hT] at hv hv'
  have hread := Memory.read32_congr (m := s.BUF) (m' := m) (a := 4 * s.T.toNat)
    fun i hi => hbuf _ (by omega)
  obtain rfl : v = v' := by simpa [hv, hv'] using hread
  simp only [setWidth_extractLsb'_of_lt hT, extractLsb'_eq_fifteen_iff hT]
  have hset := wAt_wSet_congr v (hW (.inl hg))
  refine State.liveEq_iff.2 ⟨r, _, m, n, rfl, htot, hbuf, ?_, ?_⟩
  · exact fun _ j (hj : j < s.T + 1#6) => hset j (by bv_omega)
  · by_cases h15 : s.T = 15#6 <;> simp [h15]

theorem State.LiveEq.execSched (h : s.LiveEq s') (hg : s.STAGE = Stage.sched)
    (ht : execSched s.T s = .next t) (ht' : execSched s.T s' = .next t') : t.LiveEq t' := by
  obtain ⟨r, w, m, n, rfl, htot, hbuf, hW, -⟩ := State.liveEq_iff.1 h
  obtain ⟨hT, rfl⟩ := execSched_next ht
  obtain ⟨-, rfl⟩ := execSched_next ht'
  have hword : scheduleWord s.W s.T = scheduleWord w s.T :=
    scheduleWord_congr hT fun j hj => hW (.inr hg) j hj
  have hset := wAt_wSet_congr (scheduleWord s.W s.T) (hW (.inr hg))
  simp only [← hword]
  refine State.liveEq_iff.2 ⟨r, _, m, n, rfl, htot, hbuf, ?_⟩
  by_cases h63 : s.T = 63#6
  · have hall := vector_ext_wAt fun j => hset j (by bv_omega)
    simpa [State.BlockLive, h63] using hall
  · have hbelow (j : BitVec 6) (hj : j < s.T + 1#6) := hset j (by bv_omega)
    simpa [State.BlockLive, h63] using hbelow

theorem State.LiveEq.execInit (h : s.LiveEq s') (hg : s.STAGE = Stage.init)
    (ht : execInit s = .next t) (ht' : execInit s' = .next t') : t.LiveEq t' := by
  obtain ⟨r, w, m, n, rfl, htot, hbuf, -, hW, -⟩ := State.liveEq_iff.1 h
  cases ht
  cases ht'
  obtain rfl := hW hg
  exact State.liveEq_iff.2 ⟨s.H, s.W, m, n, rfl, htot, hbuf, by simp [State.BlockLive]⟩

theorem State.LiveEq.execRound (h : s.LiveEq s') (hg : s.STAGE = Stage.round)
    (ht : execRound s.T s = .next t) (ht' : execRound s.T s' = .next t') : t.LiveEq t' := by
  obtain ⟨r, w, m, n, rfl, htot, hbuf, -, -, hRW, -⟩ := State.liveEq_iff.1 h
  cases (execRound_eq _ _).symm.trans ht
  cases (execRound_eq _ _).symm.trans ht'
  obtain ⟨rfl, hw⟩ := hRW hg
  have hword : wAt s.W s.T = wAt w s.T := hw _ (BitVec.le_refl _)
  simp only [← hword]
  refine State.liveEq_iff.2 ⟨_, w, m, n, rfl, htot, hbuf, ?_⟩
  by_cases h63 : s.T = 63#6
  · simp [State.BlockLive, h63]
  · have hrest (j : BitVec 6) (hj : s.T + 1#6 ≤ j) := hw j (by bv_omega)
    simpa [State.BlockLive, h63] using hrest

theorem State.LiveEq.execAccum (h : s.LiveEq s') (hg : s.STAGE = Stage.accum)
    (ht : execAccum s = .next t) (ht' : execAccum s' = .next t') : t.LiveEq t' := by
  obtain ⟨r, w, m, n, rfl, htot, hbuf, -, -, -, hR⟩ := State.liveEq_iff.1 h
  cases (execAccum_eq _).symm.trans ht
  cases (execAccum_eq _).symm.trans ht'
  obtain rfl := hR hg
  refine State.liveEq_iff.2 ⟨s.R, w, m, n, rfl, htot, by simp, State.blockLive_of_entry rfl ?_ _ w⟩
  simp only
  split_ifs <;> decide

/-- The micro-operation that `SEQ` selects, run in two such engines, leaves two such engines. -/
theorem State.LiveEq.exec_uop (h : s.LiveEq s') (hfill : s.FillLegal) {i : Instr}
    (hd : decodeSeq s.seq = .instr i) (ht : exec i s = .next t) (ht' : exec i s' = .next t') :
    t.LiveEq t' := by
  obtain ⟨-, -, flen, fblock, -⟩ := hfill
  have hcases := decodeSeq_cases hd
  simp only [seqStage_seq, seqT_seq] at hcases
  obtain ⟨rfl, -⟩ | ⟨rfl, -⟩ | ⟨rfl, hg, -⟩ | ⟨rfl, hg, hT⟩ | ⟨rfl, hg, -⟩ | ⟨rfl, hg, -⟩ |
    ⟨rfl, hg⟩ | ⟨rfl, hg, -⟩ := hcases
  · exact h.padByte ht ht'
  · exact h.padByte ht ht'
  · exact h.execPadlen (flen hg) ht ht'
  · exact h.execLoadw hg (fblock (.inl hg)) hT ht ht'
  · exact h.execSched hg ht ht'
  · exact h.execInit hg ht ht'
  · exact h.execRound hg ht ht'
  · exact h.execAccum hg ht ht'

/-! ### Steps and runs -/

theorem State.LiveEq.acceptPort (h : s.LiveEq s')
    (hg : s.STAGE = Stage.idle ∨ s.STAGE = Stage.final) {c : Option CmdWord}
    (ht : acceptPort c s = .next t) (ht' : acceptPort c s' = .next t') : t.LiveEq t' := by
  cases c with
  | none =>
    cases ht
    cases ht'
    exact h
  | some w =>
    rw [Machine.acceptPort] at ht ht'
    cases hd : decodeCommand w with
    | instr i =>
      rw [hd] at ht ht'
      exact h.exec_command hg hd ht ht'
    | reject e =>
      rw [hd] at ht ht'
      cases ht
      cases ht'
      exact h.raise _

theorem State.LiveEq.runUop (h : s.LiveEq s') (hfill : s.FillLegal) (ht : runUop s = .next t)
    (ht' : runUop s' = .next t') : t.LiveEq t' := by
  obtain ⟨-, hseq, -⟩ := h.control
  rw [Machine.runUop] at ht ht'
  rw [hseq] at ht'
  cases hd : decodeSeq s.seq with
  | instr i =>
    rw [hd] at ht ht'
    exact h.exec_uop hfill hd ht ht'
  | reject e => simp [hd] at ht

/-- Two such engines step to two such engines. -/
theorem State.LiveEq.step (h : s.LiveEq s') (hfill : s.FillLegal) (ht : step s = .next t)
    (ht' : step s' = .next t') : t.LiveEq t' := by
  obtain ⟨hsample, -, -⟩ := h.control
  obtain ⟨-, -, hrest⟩ := h.tick.control
  rw [Machine.step, engineStep] at ht ht'
  rw [hsample, hrest] at ht'
  split_ifs at ht ht' with hr ha
  · cases ht
    cases ht'
    obtain ⟨r, w, m, n, rfl, -⟩ := State.liveEq_iff.1 h
    exact State.liveEq_iff.2 ⟨_, _, _, _, rfl, rfl, by simp,
      State.blockLive_of_entry rfl (by simp [State.reset]) _ _⟩
  · exact h.tick.acceptPort (s.atRest_iff.1 ha).1 ht ht'
  · exact h.tick.runUop hfill ht ht'

end

/-- Settles O34: by induction on the number of steps, with the invariant to give both engines their
next step. -/
theorem deadContentNeverObserved : Obligations.DeadContentNeverObserved := by
  unfold Obligations.DeadContentNeverObserved
  intro n
  induction n with
  | zero => exact fun s s' _ _ h => ⟨s, s', rfl, rfl, h, h.observe_eq⟩
  | succ n ih =>
    intro s s' hi hi' h
    obtain ⟨u, hu⟩ := invariantStatesNeverStop s hi
    obtain ⟨u', hu'⟩ := invariantStatesNeverStop s' hi'
    have ⟨_, hfill, _⟩ := hi
    obtain ⟨t, t', ht, ht', hlive⟩ := ih u u' (stepKeepsInvariant s u hi hu)
      (stepKeepsInvariant s' u' hi' hu') (h.step hfill hu hu')
    exact ⟨t, t', by rwa [run, hu], by rwa [run, hu'], hlive⟩

end Sys2Proof.Machine
end

section
/-! The host commands one by one (R90 to R94): their words, their effects, and FEED run to rest. -/

namespace Sys2Proof.Machine

/-! ### Words -/

/-- A command word whose `OP` fits no row with an operand is legal with `DATA` 0 only (R73). -/
theorem decodeCommand_illegal_of_data {op : BitVec 4} (hop : op ≠ 0x2#4) {d : Byte} (hd : d ≠ 0) :
    decodeCommand (op ++ d) = .reject (.illegalCommand (op ++ d)) := by
  have hd : d ≠ 0#8 := hd
  simp [decodeCommand, hop, hd]

/-- The word of FEED as R92 gives it, a sum. -/
theorem feedWord_eq_add (b : Byte) : feedWord b = 0x200 + b.setWidth 12 := by
  have hb := b.isLt
  apply BitVec.eq_of_toNat_eq
  rw [feedWord, BitVec.toNat_append, BitVec.toNat_add, BitVec.toNat_setWidth,
    ← Nat.shiftLeft_add_eq_or_of_lt hb, Nat.shiftLeft_eq]
  simp
  omega

/-! ### Effects -/

/-- Settles O6: NEW at rest loads `H0` and an empty message. -/
theorem newStartsEmptyMessage : Obligations.NewStartsEmptyMessage := by
  unfold Obligations.NewStartsEmptyMessage
  refine ⟨decodeCommand_newWord, fun d => decodeCommand_illegal_of_data (by decide), fun s hg =>
    ⟨_, execNew_of_rest hg, fun k => rfl, rfl, rfl, rfl, rfl, rfl, rfl, rfl, rfl, rfl, rfl, rfl,
      rfl, rfl, rfl⟩⟩

/-- Settles O7: in IDLE the append, at index `BUFLEN`; in FINAL the refusal. -/
theorem feedAppendsByte : Obligations.FeedAppendsByte := by
  unfold Obligations.FeedAppendsByte
  intro b s
  refine ⟨?_, fun hg hl => ⟨_, execFeed_of_lt b hg hl, Memory.read_write_same _ _ b,
    fun a ha => Memory.read_write_other _ b ha, rfl, toNat_add_one _, fun h => ⟨if_pos h, rfl⟩,
    fun h => ⟨if_neg h, rfl⟩, rfl, rfl, rfl, rfl, rfl, rfl, rfl⟩, fun hg => execFeed_of_final b hg⟩
  rw [← feedWord_eq_add, decodeCommand_feedWord]

/-- Settles O8: in IDLE `FIN` and the padder's first stage; in FINAL the refusal. -/
theorem finalizeStartsPadding : Obligations.FinalizeStartsPadding := by
  unfold Obligations.FinalizeStartsPadding
  exact ⟨decodeCommand_finalizeWord, fun d => decodeCommand_illegal_of_data (by decide),
    fun s => ⟨execFinalize_of_idle, execFinalize_of_final⟩⟩

/-- A step at rest without a command waits (R201). -/
theorem step_of_no_command {s : State} (hr : s.sample.rst = false) (hrest : s.atRest = true)
    (hc : s.sample.cmd = none) : step s = .next s.tick := by
  simp [step, engineStep, hr, hrest, acceptPort, hc]

/-- Settles O21: at rest the port decides what the step runs, in a busy stage `SEQ`. -/
theorem stepRunsDecodedInstruction : Obligations.StepRunsDecodedInstruction := by
  unfold Obligations.StepRunsDecodedInstruction
  exact fun s hr => ⟨rfl,
    fun w i hg ht hc hd => step_of_command hr (s.atRest_iff.2 ⟨hg, ht⟩) hc hd,
    fun i hd => step_of_decodeSeq hr hd,
    fun hg ht hc => step_of_no_command hr (s.atRest_iff.2 ⟨hg, ht⟩) hc⟩

/-! ### FEED run to rest (R94) -/

/-- The step in which FEED is accepted, with room in the buffer. -/
theorem step_of_feedWord {s : State} {b : Byte} (hg : s.STAGE = Stage.idle) (ht : s.T = 0#6)
    (hc : s.sample = { rst := false, cmd := some (feedWord b) }) (hl : s.BUFLEN.val < 64) :
    step s = .next { s.fed b hl with inputs := s.inputs.tail } := by
  rw [step_of_command (by rw [hc]) (s.atRest_iff.2 ⟨.inl hg, ht⟩) (by rw [hc])
    (decodeCommand_feedWord b)]
  exact execFeed_of_lt (s := s.tick) b hg hl

/-- At rest the step index is 0. -/
theorem State.SeqLegal.T_of_idle {s : State} (h : s.SeqLegal) (hg : s.STAGE = Stage.idle) :
    s.T = 0#6 := by
  obtain ⟨hg', -⟩ | ⟨hg', -⟩ | hg' | ⟨ht, -⟩ := h
  · simp [hg] at hg'
  · simp [hg] at hg'
  · simp [hg] at hg'
  · exact ht

/-- What a run reaches after its first step. -/
theorem Reaches.of_step {s u : State} {n : Nat} {P : State → Prop} (h : Reaches u n P)
    (hs : step s = .next u) : Reaches s (n + 1) P := by
  rwa [Reaches, run, hs]

/-- The input samples that a run leaves. -/
theorem State.NoReset.of_drop {s u : State} {m n : Nat} (h : s.NoReset (m + n))
    (hu : u.inputs = s.inputs.drop m) : u.NoReset n := by
  intro p hp
  rw [hu, List.take_drop] at hp
  exact h p (List.drop_subset _ _ hp)

/-- The last byte of a block, fed. -/
theorem State.holdsBlock_fed {s : State} {B : Block} (hl : s.BUFLEN.val < 64)
    (hn : s.BUFLEN.val = 63) (hbuf : ∀ j (_ : j < 63), s.BUF.read j = some B[j]) :
    (s.fed B[63] hl).HoldsBlock B := by
  rintro ⟨j, hj⟩
  simp only [State.fed, Memory.read_write, hn, Fin.getElem_fin]
  split
  · next h => subst h; rfl
  · exact hbuf j (by omega)

/-- Settles O38: the accepting step, and behind it the block routine when the buffer is full. -/
theorem feedRunsToRest : Obligations.FeedRunsToRest := by
  unfold Obligations.FeedRunsToRest
  rintro s b ⟨hseq, -, hflags, -⟩ hg hc
  have ht := hseq.T_of_idle hg
  refine ⟨fun hn => ?_, fun hn hr B hbuf hb => ?_⟩
  · have hs := step_of_feedWord hg ht hc (by omega)
    refine ⟨_, (run_one s).trans hs, Memory.read_write_same _ _ b,
      fun j hj => Memory.read_write_other _ b hj.ne, rfl, rfl, rfl, if_neg (by omega)⟩
  · subst hb
    have hl : s.BUFLEN.val < 64 := by omega
    have hs := step_of_feedWord hg ht hc hl
    generalize hu : ({ s.fed B[63] hl with inputs := s.inputs.tail } : State) = u at hs
    have hg' : u.STAGE = Stage.loadw := by rw [← hu]; exact if_pos (by omega)
    have ht' : u.T = 0#6 := by rw [← hu]; rfl
    have hB : u.HoldsBlock B := by rw [← hu]; exact (s.holdsBlock_fed hl hn hbuf).of_BUF_eq rfl
    have hr' : u.NoReset 130 :=
      State.NoReset.of_drop (m := 1) hr (by rw [← hu]; exact List.drop_one.symm)
    refine ⟨fun k h1 hk => ?_, ?_⟩
    · obtain ⟨j, rfl⟩ : ∃ j, k = j + 1 := ⟨k - 1, by omega⟩
      exact (busy_in_block hg' ht' hB hr' j (by omega)).of_step hs
    · refine Reaches.of_step ⟨_, run_block hg' ht' hB hr', ?_⟩ hs
      obtain ⟨hfin, hlast⟩ := hflags.1 hg
      subst hu
      refine ⟨rfl, rfl, rfl, ?_, hfin, hlast, rfl, rfl⟩
      simp [State.afterBlock, State.fed, hfin, hlast]

end Sys2Proof.Machine
end

section
/-! FINALIZE run to rest (R95): the padder completes the last block and, where the length field does
not fit, one more; each is compressed, and what they add up to is `Hash` (R97). -/

namespace Sys2Proof.Machine

/-! ### Runs of a busy engine -/

/-- A run of `n` steps that ends in `t`, busy before each of them. -/
def BusyRun (s : State) (n : Nat) (t : State) : Prop :=
  (∀ k < n, Reaches s k fun u => u.busy = true) ∧ run n s = .next t

theorem BusyRun.zero (s : State) : BusyRun s 0 s := ⟨fun k hk => absurd hk k.not_lt_zero, rfl⟩

theorem BusyRun.one {s t : State} (hb : s.busy = true) (h : step s = .next t) : BusyRun s 1 t := by
  refine ⟨fun k hk => ?_, (run_one s).trans h⟩
  obtain rfl : k = 0 := by omega
  exact ⟨s, rfl, hb⟩

theorem BusyRun.trans {s t u : State} {m n : Nat} (h1 : BusyRun s m t) (h2 : BusyRun t n u) :
    BusyRun s (m + n) u := by
  obtain ⟨hb1, hr1⟩ := h1
  obtain ⟨hb2, hr2⟩ := h2
  refine ⟨fun k hk => ?_, run_trans hr1 hr2⟩
  by_cases h : k < m
  · exact hb1 k h
  · obtain ⟨v, hv, hb⟩ := hb2 (k - m) (by omega)
    have hrun := run_trans hr1 hv
    rw [Nat.add_sub_cancel' (by omega)] at hrun
    exact ⟨v, hrun, hb⟩

theorem BusyRun.block {s : State} {b : Block} (hg : s.STAGE = Stage.loadw) (ht : s.T = 0#6)
    (hb : s.HoldsBlock b) (hr : s.NoReset 130) : BusyRun s 130 (s.afterBlock b) :=
  ⟨busy_in_block hg ht hb hr, run_block hg ht hb hr⟩

/-! ### Blocks of a sequence (R112) -/

theorem blocks_of_length {p : List Byte} (h : p.length = 64) : blocks p = [blockAt p 0] := by
  simp [blocks, h]

/-- A sequence of whole blocks gives its blocks first. -/
theorem blocks_append {p : List Byte} (q : List Byte) (h : p.length % 64 = 0) :
    blocks (p ++ q) = blocks p ++ blocks q := by
  have hlen : (p ++ q).length / 64 = p.length / 64 + q.length / 64 := by
    rw [List.length_append]
    omega
  simp only [blocks, hlen, List.range_add, List.map_append, List.map_map]
  refine congrArg₂ (· ++ ·) ?_ ?_
  · refine List.map_congr_left fun i hi => ?_
    have hi := List.mem_range.1 hi
    ext1 j hj
    rw [blockAt_getElem _ _ hj, blockAt_getElem _ _ hj, List.getD_append _ _ _ _ (by omega)]
  · refine List.map_congr_left fun i _ => ?_
    ext1 j hj
    rw [Function.comp_apply, blockAt_getElem _ _ hj, blockAt_getElem _ _ hj,
      List.getD_append_right _ _ _ _ (by omega)]
    congr 1
    omega

/-! ### What the buffer holds -/

/-- Bytes written behind the bytes that a buffer holds. -/
theorem Memory.read_writeAll_append {m : Memory} {p : List Byte} (q : List Byte)
    (h : ∀ j < p.length, m.read j = p[j]?) :
    ∀ j < (p ++ q).length, (m.writeAll p.length q).read j = (p ++ q)[j]? := by
  intro j hj
  rw [List.length_append] at hj
  rw [Memory.read_writeAll]
  by_cases hjp : j < p.length
  · rw [if_neg (by omega), h j hjp, List.getElem?_append_left hjp]
  · rw [if_pos (by omega), List.getElem?_append_right (by omega)]

theorem State.holdsBlock_of_bytes {s : State} {p : List Byte} (hn : p.length = 64)
    (h : ∀ j < p.length, s.BUF.read j = p[j]?) : s.HoldsBlock (blockAt p 0) := by
  rintro ⟨j, hj⟩
  rw [h j (by omega), Fin.getElem_fin, blockAt_getElem _ _ hj, List.getD_eq_getElem?_getD,
    Nat.mul_zero, Nat.zero_add, List.getElem?_eq_getElem (by omega), Option.getD_some]

/-! ### The padder's steps (R115 to R118) -/

/-- The stage that follows a padding byte, by the new fill count (R118). -/
def padStage (n : Nat) : BitVec 4 :=
  if n = 64 then Stage.loadw else if n = 56 then Stage.padlen else Stage.padfill

theorem padStage_of_ne {n : Nat} (h64 : n ≠ 64) (h56 : n ≠ 56) : padStage n = Stage.padfill := by
  rw [padStage, if_neg h64, if_neg h56]

/-- The padder at work: `u` has the State `h`, the byte count `n` and the input samples `ins`, and
the bytes `p` in the buffer. -/
structure State.Padding (u : State) (h : Vector Word 8) (n : BitVec 64) (ins : List PortSample)
    (p : List Byte) : Prop where
  H : u.H = h
  TOTAL : u.TOTAL = n
  inputs : u.inputs = ins
  FIN : u.FIN = true
  LAST : u.LAST = false
  T : u.T = 0#6
  BUFLEN : u.BUFLEN.val = p.length
  BUF : ∀ j < p.length, u.BUF.read j = p[j]?

/-- A step of PADMARK or PADFILL with room in the buffer. -/
theorem step_of_padByte {u : State} {b : Byte} (hr : u.sample.rst = false)
    (hg : u.STAGE = Stage.padmark ∧ b = 0x80#8 ∨ u.STAGE = Stage.padfill ∧ b = 0x00#8)
    (ht : u.T = 0#6) (hl : u.BUFLEN.val < 64) :
    step u = .next
      { u.tick with
        BUF := u.BUF.write u.BUFLEN.val b
        BUFLEN := ⟨u.BUFLEN.val + 1, by omega⟩
        STAGE := padStage (u.BUFLEN.val + 1)
        T := 0#6 } := by
  obtain ⟨hg, rfl⟩ | ⟨hg, rfl⟩ := hg
  · rw [step_of_decodeSeq hr (decodeSeq_of_padmark hg ht)]
    exact padByte_of_lt (s := u.tick) _ hl
  · rw [step_of_decodeSeq hr (decodeSeq_of_padfill hg ht)]
    exact padByte_of_lt (s := u.tick) _ hl

section
variable {u : State} {h : Vector Word 8} {n : BitVec 64} {ins : List PortSample} {p : List Byte}

theorem State.Padding.noReset {k m : Nat} {v : State} {q : List Byte} {h' : Vector Word 8}
    (hu : u.Padding h n ins p) (hv : v.Padding h' n (ins.drop k) q) (hr : u.NoReset (k + m)) :
    v.NoReset m := hr.of_drop (by rw [hv.inputs, hu.inputs])

/-- One padding byte. -/
theorem State.Padding.step_byte {b : Byte} (hu : u.Padding h n ins p)
    (hg : u.STAGE = Stage.padmark ∧ b = 0x80#8 ∨ u.STAGE = Stage.padfill ∧ b = 0x00#8)
    (hl : p.length < 64) (hr : u.NoReset 1) :
    ∃ v, BusyRun u 1 v ∧ v.Padding h n (ins.drop 1) (p ++ [b]) ∧
      v.STAGE = padStage (p ++ [b]).length := by
  have hb : u.busy = true := by
    obtain ⟨hg, -⟩ | ⟨hg, -⟩ := hg <;> simp [State.busy, hg]
  have hs := step_of_padByte (hr.rst_drop Nat.one_pos) hg hu.T (by rwa [hu.BUFLEN])
  refine ⟨_, .one hb hs, ⟨hu.H, hu.TOTAL, ?_, hu.FIN, hu.LAST, rfl, ?_, ?_⟩, ?_⟩
  · exact (congrArg List.tail hu.inputs).trans List.drop_one.symm
  · simp [hu.BUFLEN]
  · simp only [hu.BUFLEN]
    exact Memory.read_writeAll_append [b] hu.BUF
  · simp [hu.BUFLEN]

/-- PADFILL up to a fill count at which the padder leaves it. -/
theorem State.Padding.run_zeros {k m : Nat} (hk : p.length + k = m)
    (hm : m = 56 ∨ m = 64 ∧ 56 < p.length) (hu : u.Padding h n ins p)
    (hg : u.STAGE = padStage p.length) (hr : u.NoReset k) :
    ∃ v, BusyRun u k v ∧ v.Padding h n (ins.drop k) (p ++ List.replicate k 0x00#8) ∧
      v.STAGE = padStage m := by
  induction k generalizing u p ins with
  | zero =>
    subst hk
    refine ⟨u, .zero u, ?_, hg⟩
    simpa using hu
  | succ k ih =>
    have hfill : u.STAGE = Stage.padfill := by rw [hg, padStage_of_ne (by omega) (by omega)]
    obtain ⟨v, hrun, hv, hgv⟩ := hu.step_byte (.inr ⟨hfill, rfl⟩) (by omega) (hr.mono (by omega))
    have hlen : (p ++ [0x00#8]).length = p.length + 1 := by simp
    obtain ⟨w, hrun', hw, hgw⟩ := ih (by omega) (by omega) hv hgv
      (hu.noReset hv (by rwa [Nat.add_comm 1 k]))
    refine ⟨w, by rw [Nat.add_comm]; exact hrun.trans hrun', ?_, hgw⟩
    rw [List.drop_drop, List.append_assoc, Nat.add_comm] at hw
    simpa [List.replicate_succ] using hw

/-! ### The blocks that the padder completes -/

/-- An engine that holds a finished State `h` (R95). -/
structure State.Finished (t : State) (h : Vector Word 8) (n : BitVec 64) : Prop where
  H : t.H = h
  STAGE : t.STAGE = Stage.final
  BUFLEN : t.BUFLEN.val = 0
  TOTAL : t.TOTAL = n
  FIN : t.FIN = true
  LAST : t.LAST = true

theorem State.Finished.busy {t : State} (ht : t.Finished h n) : t.busy = false :=
  t.busy_eq_false_iff.2 (.inr ht.STAGE)

theorem State.Finished.digestValid {t : State} (ht : t.Finished h n) : t.digestValid = true := by
  simp [State.digestValid, ht.STAGE]

theorem step_of_padlen {u : State} (hr : u.sample.rst = false) (hg : u.STAGE = Stage.padlen)
    (ht : u.T = 0#6) :
    step u = .next
      { u.tick with
        BUF := u.BUF.writeAll 56 (be64Bytes (lengthField u.TOTAL))
        BUFLEN := 64
        LAST := true
        STAGE := Stage.loadw
        T := 0#6 } := by
  rw [step_of_decodeSeq hr (decodeSeq_of_padlen hg ht)]
  rfl

/-- PADLEN and the block routine behind it. -/
theorem State.Padding.run_padlen (hu : u.Padding h n ins p) (hl : p.length = 56)
    (hg : u.STAGE = Stage.padlen) (hr : u.NoReset (1 + 130)) :
    ∃ t, BusyRun u (1 + 130) t ∧
      t.Finished ((blocks (p ++ be64Bytes (n * 8))).foldl compressBlock h) n := by
  have hlen : (p ++ be64Bytes (n * 8)).length = 64 := by
    rw [List.length_append, hl]
    rfl
  have hbuf := Memory.read_writeAll_append (be64Bytes (lengthField u.TOTAL)) hu.BUF
  rw [hl, hu.TOTAL] at hbuf
  have hs := step_of_padlen (hr.rst_drop (k := 0) (by omega)) hg hu.T
  rw [hu.TOTAL] at hs
  have hload := BusyRun.one (by simp [State.busy, hg]) hs
  refine ⟨_, hload.trans (.block rfl rfl (State.holdsBlock_of_bytes hlen hbuf)
    (hr.of_drop List.drop_one.symm)), ?_, by simp [State.afterBlock], rfl, hu.TOTAL, hu.FIN, rfl⟩
  rw [blocks_of_length hlen, ← hu.H]
  rfl

/-- The last block: zero bytes, the length field, and the block routine. -/
theorem State.Padding.run_last {k : Nat} (hu : u.Padding h n ins p) (hk : p.length + k = 56)
    (hg : u.STAGE = padStage p.length) (hr : u.NoReset (k + (1 + 130))) :
    ∃ t, BusyRun u (k + (1 + 130)) t ∧ t.Finished ((blocks
      (p ++ List.replicate k 0x00#8 ++ be64Bytes (n * 8))).foldl compressBlock h) n := by
  obtain ⟨v, hrun, hv, hgv⟩ := hu.run_zeros hk (.inl rfl) hg (hr.mono (by omega))
  obtain ⟨t, hrun', ht⟩ := hv.run_padlen (by simpa using hk) hgv (hu.noReset hv hr)
  exact ⟨t, hrun.trans hrun', ht⟩

/-- The block before it, where the length field does not fit: zero bytes and the block routine. -/
theorem State.Padding.run_spill {k : Nat} (hu : u.Padding h n ins p) (hl : 56 < p.length)
    (hk : p.length + k = 64) (hg : u.STAGE = padStage p.length) (hr : u.NoReset (k + 130)) :
    ∃ v, BusyRun u (k + 130) v ∧
      v.Padding ((blocks (p ++ List.replicate k 0x00#8)).foldl compressBlock h) n
        (ins.drop (k + 130)) [] ∧
      v.STAGE = padStage 0 := by
  obtain ⟨v, hrun, hv, hgv⟩ := hu.run_zeros hk (.inr ⟨rfl, hl⟩) hg (hr.mono (by omega))
  have hlen : (p ++ List.replicate k 0x00#8).length = 64 := by simpa using hk
  have hblock := BusyRun.block hgv hv.T (v.holdsBlock_of_bytes hlen hv.BUF) (hu.noReset hv hr)
  refine ⟨_, hrun.trans hblock, ⟨?_, hv.TOTAL, ?_, hv.FIN, hv.LAST, rfl, rfl, by simp⟩, ?_⟩
  · rw [blocks_of_length hlen, ← hv.H]
    rfl
  · rw [← List.drop_drop, ← hv.inputs]
    rfl
  · simp [State.afterBlock, hv.FIN, hv.LAST, padStage]

end

/-! ### The whole padding (R110) -/

/-- What the padder makes of the bytes `p` behind the last whole block of a message of `n` bytes. -/
def paddedTail (p : List Byte) (n : BitVec 64) : List Byte :=
  p ++ [0x80#8] ++ List.replicate (padZeros p.length) 0x00#8 ++ be64Bytes (n * 8)

/-- The number of micro-operations that FINALIZE starts (R95). -/
def paddingSteps (p : List Byte) (n : BitVec 64) : Nat :=
  2 + padZeros p.length + 130 * ((paddedTail p n).length / 64)

theorem length_paddedTail (p : List Byte) (n : BitVec 64) :
    (paddedTail p n).length = p.length + 1 + padZeros p.length + 8 := by
  simp [paddedTail, be64Bytes]
  omega

section
variable {u : State} {h : Vector Word 8} {n : BitVec 64} {ins : List PortSample} {p : List Byte}

/-- The padder runs until the digest is there: one block where the length field fits, two where it
does not. -/
theorem State.Padding.run_padding (hu : u.Padding h n ins p) (hg : u.STAGE = Stage.padmark)
    (hl : p.length ≤ 63) (hr : u.NoReset (paddingSteps p n)) :
    ∃ t, BusyRun u (paddingSteps p n) t ∧
      t.Finished ((blocks (paddedTail p n)).foldl compressBlock h) n := by
  have hsteps : paddingSteps p n = 2 + padZeros p.length +
      130 * ((p.length + 1 + padZeros p.length + 8) / 64) := by
    rw [paddingSteps, length_paddedTail]
  obtain ⟨v, hrun, hv, hgv⟩ := hu.step_byte (.inl ⟨hg, rfl⟩) (by omega) (hr.mono (by omega))
  have hlen : (p ++ [0x80#8]).length = p.length + 1 := by simp
  by_cases hfit : p.length ≤ 55
  · have hz : padZeros p.length = 55 - p.length := by rw [padZeros]; omega
    have hn : paddingSteps p n = 1 + (padZeros p.length + (1 + 130)) := by omega
    rw [hn] at hr ⊢
    obtain ⟨t, hrun', ht⟩ := hv.run_last (by omega) hgv (hu.noReset hv hr)
    exact ⟨t, hrun.trans hrun', ht⟩
  · obtain ⟨k, hk⟩ : ∃ k, padZeros p.length = k + 56 := ⟨63 - p.length, by rw [padZeros]; omega⟩
    have hz : padZeros p.length = 119 - p.length := by rw [padZeros]; omega
    have hn : paddingSteps p n = 1 + ((k + 130) + (56 + (1 + 130))) := by omega
    rw [hn] at hr ⊢
    have hr' := hu.noReset hv hr
    obtain ⟨w, hrun', hw, hgw⟩ := hv.run_spill (k := k) (by omega) (by omega) hgv
      (hr'.mono (by omega))
    obtain ⟨t, hrun'', ht⟩ := hw.run_last (k := 56) rfl hgw (hv.noReset hw hr')
    refine ⟨t, hrun.trans (hrun'.trans hrun''), ?_⟩
    have hsplit : paddedTail p n = (p ++ [0x80#8] ++ List.replicate k 0x00#8) ++
        ([] ++ List.replicate 56 0x00#8 ++ be64Bytes (n * 8)) := by
      rw [paddedTail, hk, List.replicate_add]
      simp only [List.append_assoc, List.nil_append]
    rw [hsplit, blocks_append _ (by simp; omega), List.foldl_append]
    exact ht

end

/-- Padding in one block or in two, by the bytes behind the last whole block (R95). -/
theorem foldl_blocks_paddedTail (h : Vector Word 8) {p : List Byte} (n : BitVec 64)
    (hl : p.length ≤ 63) :
    (blocks (paddedTail p n)).foldl compressBlock h =
      if p.length ≤ 55 then compressBlock h (blockAt (paddedTail p n) 0)
      else compressBlock (compressBlock h (blockAt (paddedTail p n) 0))
        (blockAt (paddedTail p n) 1) := by
  have hlen := length_paddedTail p n
  rw [padZeros] at hlen
  by_cases hfit : p.length ≤ 55
  · have hone : (paddedTail p n).length / 64 = 1 := by omega
    simp [blocks, hone, hfit]
  · have htwo : (paddedTail p n).length / 64 = 2 := by omega
    simp [blocks, htwo, hfit, List.range_succ]

/-! ### FINALIZE -/

/-- The accepting step, and the busy run behind it. -/
theorem run_finalize {s : State} {p : List Byte} (hg : s.STAGE = Stage.idle) (ht : s.T = 0#6)
    (hlast : s.LAST = false) (hc : s.sample = { rst := false, cmd := some finalizeWord })
    (hn : s.BUFLEN.val = p.length) (hbuf : ∀ j < p.length, s.BUF.read j = p[j]?)
    (hl : p.length ≤ 63) (hr : s.NoReset (paddingSteps p s.TOTAL + 1)) :
    ∃ u t, step s = .next u ∧ BusyRun u (paddingSteps p s.TOTAL) t ∧
      t.Finished ((blocks (paddedTail p s.TOTAL)).foldl compressBlock s.H) s.TOTAL := by
  have hs : step s = .next
      { s.tick with FIN := true, STAGE := Stage.padmark, T := 0#6, resp := some .ok } := by
    rw [step_of_command (by rw [hc]) (s.atRest_iff.2 ⟨.inl hg, ht⟩) (by rw [hc])
      decodeCommand_finalizeWord]
    exact execFinalize_of_idle (s := s.tick) hg
  obtain ⟨t, hrun, ht⟩ := State.Padding.run_padding (p := p) (h := s.H) (n := s.TOTAL)
    (u := { s.tick with FIN := true, STAGE := Stage.padmark, T := 0#6, resp := some .ok })
    ⟨rfl, rfl, rfl, rfl, hlast, rfl, hn, hbuf⟩ rfl hl
    (State.NoReset.of_drop (m := 1) (by rwa [Nat.add_comm]) List.drop_one.symm)
  exact ⟨_, t, hs, hrun, ht⟩

/-! ### The message held, padded (R97) -/

/-- The State after all blocks of the padded message. -/
def hashState (m : List Byte) : Vector Word 8 := (blocks (pad m)).foldl compressBlock config.H0

theorem hashMessage_eq (m : List Byte) : hashMessage m = digest (hashState m) := rfl

/-- Padding leaves the whole blocks of a message as they are. -/
theorem pad_eq (m : List Byte) :
    pad m = m.take (64 * (m.length / 64)) ++
      paddedTail (m.drop (64 * (m.length / 64))) (BitVec.ofNat 64 m.length) := by
  have hzeros : padZeros (m.drop (64 * (m.length / 64))).length = padZeros m.length := by
    have hlen : (m.drop (64 * (m.length / 64))).length = m.length % 64 := by
      rw [List.length_drop]
      omega
    rw [hlen, padZeros, padZeros, Nat.mod_mod]
  have hcount : BitVec.ofNat 64 (m.length * 8) = BitVec.ofNat 64 m.length * 8 :=
    BitVec.ofNat_mul ..
  rw [paddedTail, hzeros, ← hcount, pad]
  simp only [← List.append_assoc, List.take_append_drop]

section
variable {s : State} {m : List Byte}

/-- The padder completes the message that the engine holds. -/
theorem State.HoldsMessage.foldl_paddedTail (h : s.HoldsMessage m) :
    (blocks (paddedTail (m.drop (64 * (m.length / 64))) s.TOTAL)).foldl compressBlock s.H =
      hashState m := by
  obtain ⟨-, -, -, -, -, htot, hH, -⟩ := h
  rw [hashState, pad_eq, blocks_append _ (by simp; omega), List.foldl_append, ← hH, htot]

/-- The bytes in the buffer are those behind the last whole block. -/
theorem State.HoldsMessage.tail_eq (h : s.HoldsMessage m) {p : List Byte}
    (hn : p.length = s.BUFLEN.val) (hbuf : ∀ j < p.length, s.BUF.read j = p[j]?) :
    p = m.drop (64 * (m.length / 64)) := by
  obtain ⟨-, -, -, -, hlen, -, -, hm⟩ := h
  refine List.ext_getElem? fun j => ?_
  rw [List.getElem?_drop]
  by_cases hj : j < p.length
  · rw [← hbuf j hj, hm j (by omega)]
  · rw [List.getElem?_eq_none (by omega), List.getElem?_eq_none (by omega)]

end

/-- Settles O39: the padder's run, and the blocks it compresses. -/
theorem finalizeRunsToRest : Obligations.FinalizeRunsToRest := by
  unfold Obligations.FinalizeRunsToRest
  rintro s ⟨hseq, hfill, hflags, -⟩ hg hc p hn hbuf z P n hr
  have hl : p.length ≤ 63 := by
    rw [hn]
    exact hfill.1 (.inl hg)
  obtain ⟨u, t, hs, ⟨hbusy, hrun⟩, ht⟩ := run_finalize hg (hseq.T_of_idle hg) (hflags.1 hg).2 hc
    hn.symm hbuf hl hr
  refine ⟨fun k h1 hk => ?_, Reaches.of_step ⟨t, hrun, ?_, ht.STAGE, ht.BUFLEN, ht.TOTAL, ht.FIN,
    ht.LAST, ht.digestValid, fun m hm => ?_⟩ hs⟩
  · obtain ⟨j, rfl⟩ : ∃ j, k = j + 1 := ⟨k - 1, by omega⟩
    exact (hbusy j hk).of_step hs
  · rw [ht.H]
    exact foldl_blocks_paddedTail s.H s.TOTAL hl
  · rw [hashMessage_eq, ← hm.foldl_paddedTail, ← hm.tail_eq hn hbuf, ht.H]

end Sys2Proof.Machine
end

section
/-! Programs (R97, R98): the sequences of words that hash a message, whole or in chunks, sent by a
host that waits. -/

namespace Sys2Proof.Machine

/-! ### Sequences of words -/

theorem sendAll_append (ws ws' : List CmdWord) (s : State) :
    sendAll (ws ++ ws') s = andThen (sendAll ws s) (sendAll ws') := by
  induction ws generalizing s with
  | nil => rfl
  | cons w ws ih =>
    rw [List.cons_append, sendAll, sendAll, andThen_assoc]
    exact congrArg (andThen (send w s)) (funext ih)

theorem sendAll_singleton (w : CmdWord) : sendAll [w] = send w :=
  funext fun s => andThen_next (send w s)

/-- No command starts more than 325 micro-operations (R227): FINALIZE's number of them. -/
theorem paddingSteps_le {p : List Byte} (n : BitVec 64) (hl : p.length ≤ 63) :
    paddingSteps p n ≤ maxBusy := by
  have hz : padZeros p.length = (119 - p.length % 64) % 64 := rfl
  rw [paddingSteps, length_paddedTail, maxBusy]
  omega

section
variable {s : State} {m : List Byte}

/-- Feeding a chunk appends it to the message held. -/
theorem State.HoldsMessage.sendAll_feeds (h : s.HoldsMessage m) (c : List Byte) :
    ∃ t, sendAll (feeds c) s = .next t ∧ t.HoldsMessage (m ++ c) := by
  induction c generalizing s m with
  | nil => exact ⟨s, rfl, by rwa [List.append_nil]⟩
  | cons b c ih =>
    obtain ⟨u, hu, hm⟩ := h.send_feedWord b
    obtain ⟨t, ht, hm⟩ := ih hm
    refine ⟨t, ?_, by rwa [List.append_assoc] at hm⟩
    rw [feeds, List.map_cons, sendAll, hu]
    exact ht

/-- FINALIZE, sent by a host that waits, leaves the digest of the message held. -/
theorem State.HoldsMessage.send_finalizeWord (h : s.HoldsMessage m) :
    ∃ t, send finalizeWord s = .next t ∧ t.digestValid = true ∧ t.H = hashState m := by
  have h' := h
  obtain ⟨hg, ht, -, hlast, hn, -, -, hbuf⟩ := h'
  have hlen : (m.drop (64 * (m.length / 64))).length = m.length % 64 := by
    rw [List.length_drop]
    omega
  have hl : (m.drop (64 * (m.length / 64))).length ≤ 63 := by omega
  obtain ⟨u, t, hs, ⟨hbusy, hrun⟩, ht⟩ := run_finalize
    (s := { s with inputs := [{ rst := false, cmd := some finalizeWord }] })
    (p := m.drop (64 * (m.length / 64))) hg ht hlast rfl (hn.trans hlen.symm)
    (fun j hj => by rw [List.getElem?_drop]; exact hbuf j (by omega)) hl
    (fun p hp => by rw [List.mem_singleton.1 (List.mem_of_mem_take hp)])
  refine ⟨t, ?_, ht.digestValid, ht.H.trans h.foldl_paddedTail⟩
  rw [send, hs]
  exact wait_of_busy_run (paddingSteps_le _ hl) hbusy hrun ht.busy

/-- FEEDS and FINALIZE. -/
theorem State.HoldsMessage.sendAll_hash (h : s.HoldsMessage m) (c : List Byte) :
    ∃ t, sendAll (feeds c ++ [finalizeWord]) s = .next t ∧ t.digestValid = true ∧
      t.H = hashState (m ++ c) := by
  obtain ⟨u, hu, hm⟩ := h.sendAll_feeds c
  obtain ⟨t, ht, hdone⟩ := hm.send_finalizeWord
  exact ⟨t, by rw [sendAll_append, hu, sendAll_singleton]; exact ht, hdone⟩

end

/-- HASH from every rest state. -/
theorem sendAll_hashProgram {s : State} (ht : s.T = 0#6)
    (hg : s.STAGE = Stage.idle ∨ s.STAGE = Stage.final) (m : List Byte) :
    ∃ t, sendAll (hashProgram m) s = .next t ∧ t.digestValid = true ∧ t.H = hashState m := by
  obtain ⟨u, hu, hm⟩ := send_newWord ht hg
  obtain ⟨t, ht, hdone⟩ := hm.sendAll_hash m
  refine ⟨t, ?_, hdone⟩
  rw [hashProgram, List.cons_append, sendAll, hu]
  exact ht

/-- The digest of a State, byte by byte on the port (R54). -/
theorem getElem?_hashMessage {t : State} {m : List Byte} (h : t.H = hashState m) {k : Nat}
    (hk : k < 32) : (hashMessage m)[k]? = some (t.digestOut.extractLsb' (248 - 8 * k) 8) := by
  obtain ⟨-, hbytes⟩ := digestBytesOnPort t
  rw [hashMessage_eq, ← h]
  exact (hbytes k hk).2

/-- Settles O41: the words of the program one after another, by induction over the message. -/
theorem hashProgramComputesHash : Obligations.HashProgramComputesHash := by
  unfold Obligations.HashProgramComputesHash
  refine ⟨fun s m ht hg => ?_, fun m => ?_⟩
  · obtain ⟨t, hs, hvalid, hH⟩ := sendAll_hashProgram ht hg m
    exact ⟨t, hs, hvalid, length_digest _, fun k => getElem?_hashMessage hH⟩
  · obtain ⟨hreset, -⟩ := fedMessageIsHeld
    obtain ⟨t, hs, hvalid, hH⟩ := hreset.sendAll_hash m
    exact ⟨t, hs, hvalid, fun k => getElem?_hashMessage hH⟩

/-! ### Chunks and pauses (R98) -/

section
variable {s : State} {m : List Byte}

/-- A step at rest without a sample on the port keeps the message held. -/
theorem State.HoldsMessage.step_of_no_inputs (h : s.HoldsMessage m) (hin : s.inputs = []) :
    ∃ t, step s = .next t ∧ t.HoldsMessage m ∧ t.inputs = [] := by
  have h' := h
  obtain ⟨hg, ht, -⟩ := h'
  have hquiet : s.sample = .quiet := by rw [State.sample, hin]; rfl
  refine ⟨s.tick, step_of_no_command (by rw [hquiet]; rfl) (s.atRest_iff.2 ⟨.inl hg, ht⟩)
    (by rw [hquiet]; rfl), h, ?_⟩
  rw [State.tick_inputs, hin]
  rfl

theorem State.HoldsMessage.run_of_no_inputs (h : s.HoldsMessage m) (hin : s.inputs = []) (n : Nat) :
    ∃ t, run n s = .next t ∧ t.HoldsMessage m := by
  induction n generalizing s with
  | zero => exact ⟨s, rfl, h⟩
  | succ n ih =>
    obtain ⟨u, hu, hm, hin'⟩ := h.step_of_no_inputs hin
    obtain ⟨t, ht, hm⟩ := ih hm hin'
    exact ⟨t, by rw [run, hu]; exact ht, hm⟩

/-- A pause keeps the message held. -/
theorem State.HoldsMessage.pause (h : s.HoldsMessage m) (n : Nat) :
    ∃ t, pause n s = .next t ∧ t.HoldsMessage m :=
  State.HoldsMessage.run_of_no_inputs (s := { s with inputs := [] }) h rfl n

/-- Chunks are fed like the message that they are cut from. -/
theorem State.HoldsMessage.sendChunks (h : s.HoldsMessage m) (cs : List (Nat × List Byte)) :
    ∃ t, sendChunks cs s = .next t ∧ t.HoldsMessage (m ++ cs.flatMap Prod.snd) := by
  induction cs generalizing s m with
  | nil => exact ⟨s, rfl, by simpa using h⟩
  | cons c cs ih =>
    obtain ⟨n, c⟩ := c
    obtain ⟨u, hu, hm⟩ := h.pause n
    obtain ⟨v, hv, hm⟩ := hm.sendAll_feeds c
    obtain ⟨t, ht, hm⟩ := ih hm
    refine ⟨t, ?_, by rwa [List.append_assoc] at hm⟩
    rw [Machine.sendChunks, hu, andThen, hv]
    exact ht

end

/-- The port shows `H` and nothing else. -/
theorem digestOut_congr {t t' : State} (h : t.H = t'.H) : t.digestOut = t'.digestOut := by
  rw [State.digestOut, State.digestOut, h]

/-- Settles O42: both runs hold the same message when FINALIZE comes. -/
theorem chunksAndPausesDoNotMatter : Obligations.ChunksAndPausesDoNotMatter := by
  unfold Obligations.ChunksAndPausesDoNotMatter
  intro s cs ht hg
  obtain ⟨u, hu, hm⟩ := send_newWord ht hg
  obtain ⟨v, hv, hm⟩ := hm.sendChunks cs
  obtain ⟨t, ht', hvalid, hH⟩ := hm.send_finalizeWord
  obtain ⟨t', hs', hvalid', hH'⟩ := sendAll_hashProgram ht hg (cs.flatMap Prod.snd)
  refine ⟨t, t', ?_, hs', digestOut_congr (hH.trans hH'.symm), hvalid, hvalid'⟩
  rw [hu, andThen, hv]
  exact ht'

end Sys2Proof.Machine
end

section
/-! The block routine in its order (R119), and the padder's steps one by one (R115 to R118). -/

namespace Sys2Proof.Machine

/-! ### The order of the block routine (R119) -/

/-- `SEQ` along LOADW and SCHED. -/
theorem State.scheduling_seq (s : State) (b : Block) {k : Nat} (hk : k < 64) :
    (s.scheduling b k).seq =
      if k < 16 then Stage.loadw ++ BitVec.ofNat 6 k else Stage.sched ++ BitVec.ofNat 6 k := by
  rw [State.seq, State.scheduling_STAGE, State.scheduling_T, if_pos hk]
  split_ifs <;> rfl

/-- `SEQ` along the rounds, up to ACCUM. -/
theorem State.compressing_seq (s : State) {k : Nat} (hk : k ≤ 64) :
    (s.compressing k).seq =
      if k < 64 then Stage.round ++ BitVec.ofNat 6 k else Stage.accum ++ 0#6 := by
  rw [State.seq, State.compressing_STAGE, State.compressing_T]
  split_ifs
  · rfl
  · obtain rfl : k = 64 := by omega
    rfl

/-- Settles O37: LOADW and SCHED before step 64, INIT in it, the rounds and ACCUM behind it. -/
theorem blockRoutineCompressesBlock : Obligations.BlockRoutineCompressesBlock := by
  unfold Obligations.BlockRoutineCompressesBlock
  refine fun s b hg ht _ hb hr => ⟨fun k hk => ?_, run_block hg ht hb hr⟩
  obtain h | rfl | h := lt_trichotomy k 64
  · refine ⟨_, run_scheduling hg ht hb h.le (hr.mono (by omega)), ?_⟩
    simp only [s.scheduling_seq b h, if_pos h]
  · exact ⟨_, run_scheduling hg ht hb le_rfl (hr.mono (by omega)), rfl⟩
  · obtain ⟨j, rfl⟩ : ∃ j, k = 64 + (j + 1) := ⟨k - 65, by omega⟩
    have hj : 64 + (j + 1) - 65 = j := by omega
    have hround : 64 + (j + 1) < 129 ↔ j < 64 := by omega
    refine ⟨_, run_scheduling_compressing hg ht hb (by omega) (hr.mono (by omega)), ?_⟩
    simp only [State.compressing_seq _ (show j ≤ 64 by omega), if_neg h.not_gt, if_neg h.ne',
      if_neg (show ¬ 64 + (j + 1) < 16 by omega), hj, hround]

/-! ### The padder's steps (R115 to R118) -/

/-- Settles O11: both append one byte, and the new fill count chooses the stage. -/
theorem paddingBytesAppended : Obligations.PaddingBytesAppended := by
  unfold Obligations.PaddingBytesAppended
  refine ⟨rfl, rfl, fun i b hib s hl => ?_⟩
  have hpad : exec i s = padByte b s := by
    obtain ⟨rfl, rfl⟩ | ⟨rfl, rfl⟩ := hib <;> rfl
  exact ⟨_, hpad.trans (padByte_of_lt b hl), Memory.read_write_same _ _ b,
    fun a ha => Memory.read_write_other _ b ha, rfl, rfl, rfl, rfl, rfl, rfl, rfl, rfl, rfl, rfl,
    rfl⟩

@[simp] theorem length_be64Bytes (v : BitVec 64) : (be64Bytes v).length = 8 := rfl

/-- Byte `j` of a 64-bit value, counted from the most significant (R14). -/
theorem getElem?_be64Bytes (v : BitVec 64) {j : Nat} (hj : j < 8) :
    (be64Bytes v)[j]? = some (v.extractLsb' (56 - 8 * j) 8) := by
  interval_cases j <;> rfl

theorem toNat_lengthField (n : BitVec 64) : (lengthField n).toNat = n.toNat * 8 % 2 ^ 64 := rfl

/-- Settles O12: the eight bytes are written at 56 to 63, each a field of the bit length. -/
theorem padlenWritesBitLength : Obligations.PadlenWritesBitLength := by
  unfold Obligations.PadlenWritesBitLength
  refine ⟨rfl, fun s => ⟨_, rfl, fun j hj => ?_, fun a ha => ?_, rfl, rfl, rfl, rfl, rfl, rfl, rfl,
    rfl, rfl, rfl, rfl⟩⟩
  · refine (Memory.read_writeAll ..).trans ?_
    rw [length_be64Bytes, if_pos (by omega), Nat.add_sub_cancel_left, getElem?_be64Bytes _ hj,
      ← toNat_lengthField, BitVec.extractLsb', Nat.shiftRight_eq_div_pow]
  · refine (Memory.read_writeAll ..).trans ?_
    rw [length_be64Bytes, if_neg (by omega)]

end Sys2Proof.Machine
end

section
/-! The padded message and its blocks (R110 to R112). -/

namespace Sys2Proof.Machine

/-! ### The padded message (R110, R111) -/

theorem padZeros_lt (n : Nat) : padZeros n < 64 := Nat.mod_lt _ (by decide)

/-- The number of zero bytes, as R111 writes it. -/
theorem natCast_padZeros (n : Nat) : (padZeros n : Int) = (55 - (n : Int)) % 64 := by
  rw [padZeros]
  omega

/-- The zero bytes bring the length to 56 modulo 64. -/
theorem add_padZeros_mod (n : Nat) : (n + 1 + padZeros n) % 64 = 56 := by
  rw [padZeros]
  omega

theorem length_pad (m : List Byte) :
    (pad m).length = m.length + 1 + padZeros m.length + 8 := by
  simp [pad]
  omega

/-- A padded message is made of whole blocks. -/
theorem length_pad_mod (m : List Byte) : (pad m).length % 64 = 0 := by
  have := add_padZeros_mod m.length
  rw [length_pad]
  omega

@[simp] theorem length_blocks (p : List Byte) : (blocks p).length = p.length / 64 := by simp [blocks]

/-- Settles O46: fewer zero bytes than `padZeros` leave the length short of 56 modulo 64. -/
theorem padAppendsMarkZerosLength : Obligations.PadAppendsMarkZerosLength := by
  unfold Obligations.PadAppendsMarkZerosLength
  intro m
  have hz := padZeros_lt m.length
  have h56 := add_padZeros_mod m.length
  have hcount : BitVec.ofNat 64 (m.length * 8 % 2 ^ 64) = BitVec.ofNat 64 (m.length * 8) :=
    BitVec.eq_of_toNat_eq (by simp)
  refine ⟨padZeros m.length, natCast_padZeros _, by rw [hcount]; rfl, h56, fun y hy => ?_,
    length_pad_mod m⟩
  omega

/-- Settles O47: a multiple of 64 less than 64 above `n + 9` is the least one from there. -/
theorem paddingSizes : Obligations.PaddingSizes := by
  unfold Obligations.PaddingSizes
  intro m
  have hz := padZeros_lt m.length
  have hlen := length_pad m
  have hmod := length_pad_mod m
  rw [length_blocks]
  refine ⟨⟨padZeros m.length, by omega, natCast_padZeros _, hlen⟩, fun k => ?_, ?_, ?_, ?_, ?_⟩
  all_goals omega

/-! ### The blocks of a padded message (R112) -/

theorem toList_blockAt_zero {p : List Byte} (h : p.length = 64) : (blockAt p 0).toList = p := by
  refine List.ext_getElem (by simp [h]) fun j hj hj' => ?_
  rw [Vector.getElem_toList, blockAt_getElem _ _ (by omega)]
  simp [hj']

/-- A sequence of `q` whole blocks is its blocks one after the other. -/
theorem flatMap_blocks {p : List Byte} {q : Nat} (h : p.length = 64 * q) :
    (blocks p).flatMap Vector.toList = p := by
  induction q generalizing p with
  | zero =>
    obtain rfl := List.eq_nil_of_length_eq_zero h
    rfl
  | succ q ih =>
    have hhead : (p.take 64).length = 64 := by rw [List.length_take]; omega
    have hsplit := blocks_append (p.drop 64) (show (p.take 64).length % 64 = 0 by rw [hhead])
    rw [List.take_append_drop, blocks_of_length hhead] at hsplit
    rw [hsplit, List.flatMap_append, List.flatMap_singleton, toList_blockAt_zero hhead,
      ih (by rw [List.length_drop]; omega), List.take_append_drop]

/-- Settles O48: block by block, from the front. -/
theorem blocksCoverPaddedMessage : Obligations.BlocksCoverPaddedMessage := by
  unfold Obligations.BlocksCoverPaddedMessage
  exact fun p h => ⟨length_blocks p, flatMap_blocks (q := p.length / 64) (by omega)⟩

end Sys2Proof.Machine
end

section
/-! The message scheduler: the mixing functions bit by bit (R130, R131, R151, R152), LOADW and SCHED
one by one (R134, R135), and the schedule of a block (R133, R136). -/

namespace Sys2Proof.Machine

/-! ### Rotation and shift (R10, R11) -/

/-- Bit `i` of a rotation, for the amounts to which R10 gives a meaning. -/
theorem getLsbD_rotr (x : Word) {n i : Nat} (h0 : 0 < n) (hn : n < 32) (hi : i < 32) :
    (rotr x n).getLsbD i = x.getLsbD ((i + n) % 32) := by
  rw [rotr, BitVec.getLsbD_or, BitVec.getLsbD_ushiftRight, BitVec.getLsbD_shiftLeft]
  by_cases h : i + n < 32
  · simp [Nat.mod_eq_of_lt h, Nat.add_comm n i, show i < 32 - n by omega]
  · have hwrap : (i + n) % 32 = i - (32 - n) := by omega
    simp [hwrap, hi, show ¬ i < 32 - n by omega, BitVec.getLsbD_of_ge x (n + i) (by omega)]

/-- Settles O16: three rotated or shifted copies of the word, each read at its bit. -/
theorem mixingFunctionsBitwise : Obligations.MixingFunctionsBitwise := by
  unfold Obligations.MixingFunctionsBitwise
  intro x i hi
  simp (disch := omega) only [sigma0, sigma1, bigSigma0, bigSigma1, BitVec.getLsbD_xor,
    BitVec.getLsbD_ushiftRight, getLsbD_rotr, Nat.add_comm _ i, and_self]

/-! ### LOADW (R134) -/

theorem toNat_append_eq_add {m n : Nat} (x : BitVec m) (y : BitVec n) :
    (x ++ y).toNat = x.toNat * 2 ^ n + y.toNat := by
  rw [BitVec.toNat_append, ← Nat.shiftLeft_add_eq_or_of_lt y.isLt, Nat.shiftLeft_eq]

/-- The value of four bytes, the first the most significant (R14). -/
theorem toNat_be32 (b0 b1 b2 b3 : Byte) : (be32 b0 b1 b2 b3).toNat =
    b0.toNat * 2 ^ 24 + b1.toNat * 2 ^ 16 + b2.toNat * 2 ^ 8 + b3.toNat := by
  simp only [be32, toNat_append_eq_add]
  omega

/-- LOADW on four bytes that have been written. -/
theorem execLoadw_of_read32_ok {s : State} {t : BitVec 4} {v : Word}
    (h : s.BUF.read32 (4 * t.toNat) = .ok v) :
    execLoadw t s = .next
      { s with
        W := s.W.set t.toNat v (by omega)
        STAGE := if t.toNat = 15 then Stage.sched else Stage.loadw
        T := BitVec.ofNat 6 (t.toNat + 1) } := by
  obtain ⟨u, hu⟩ := execLoadw_of_read32 h
  obtain ⟨v', hv', rfl⟩ := execLoadw_next hu
  obtain rfl : v = v' := by simpa [h] using hv'
  have hT : t.setWidth 6 + 1#6 = BitVec.ofNat 6 (t.toNat + 1) := by bv_omega
  have hlast : t = 15#4 ↔ t.toNat = 15 := BitVec.toNat_inj.symm
  have hidx : (t.setWidth 6).toNat = t.toNat := BitVec.toNat_setWidth_of_le (by decide)
  simp only [hu, hT, hlast, wSet, hidx]

/-- Settles O13: the word is `BE32` of the four bytes read. -/
theorem loadwLoadsBigEndianWord : Obligations.LoadwLoadsBigEndianWord := by
  unfold Obligations.LoadwLoadsBigEndianWord
  intro t s b0 b1 b2 b3
  refine ⟨?_, fun h0 h1 h2 h3 => ⟨be32 b0 b1 b2 b3, toNat_be32 .., ?_⟩⟩
  · rw [← loadwWord_eq]
    exact decode_encode (i := .loadw t) rfl
  · exact execLoadw_of_read32_ok (Memory.read32_ok (by omega) h0 h1 h2 h3)

/-! ### SCHED (R135) -/

theorem wAt_ofNat (w : Vector Word 64) {n : Nat} (hn : n < 64) :
    wAt w (BitVec.ofNat 6 n) = w[n] := by
  simp only [wAt, toNat_ofNat_of_lt hn]

/-- A word `c` places before index `n`. -/
theorem wAt_ofNat_sub (w : Vector Word 64) {n c : Nat} (hc : c ≤ n) (hn : n < 64) :
    wAt w (BitVec.ofNat 6 n - BitVec.ofNat 6 c) = w[n - c] := by
  rw [BitVec.ofNat_sub_ofNat_of_le n c (by omega) hc, wAt_ofNat w (by omega)]

/-- The sum of R133 and R135 at index `k + 16`, in exact arithmetic reduced modulo 2^32. -/
theorem toNat_scheduleWord (w : Vector Word 64) {k : Nat} (hk : k < 48) :
    (scheduleWord w (BitVec.ofNat 6 (k + 16))).toNat =
      (w[k].toNat + (sigma0 w[k + 1]).toNat + w[k + 9].toNat + (sigma1 w[k + 14]).toNat) %
        2 ^ 32 := by
  have word (c : Nat) (hc : c ≤ 16) :=
    wAt_ofNat_sub w (n := k + 16) (c := c) (by omega) (by omega)
  simp [scheduleWord, word, BitVec.toNat_add, Nat.add_sub_assoc]

/-- Settles O15: the word is `scheduleWord`, and the index after 63 wraps to 0. -/
theorem schedComputesWord : Obligations.SchedComputesWord := by
  unfold Obligations.SchedComputesWord
  intro k hk s
  have hidx : (BitVec.ofNat 6 (k + 16)).toNat = k + 16 := toNat_ofNat_of_lt (by omega)
  have hle : 16 ≤ (BitVec.ofNat 6 (k + 16)).toNat := by omega
  refine ⟨decode_encode (i := .sched _) (decide_eq_true hle), _, toNat_scheduleWord s.W hk,
    (execSched_of_le hle).trans ?_⟩
  have hlast : BitVec.ofNat 6 (k + 16) = 63#6 ↔ k + 16 = 63 := by
    rw [← BitVec.toNat_inj, hidx]
    rfl
  have hT : BitVec.ofNat 6 (k + 16) + 1#6 =
      if k + 16 = 63 then 0#6 else BitVec.ofNat 6 (k + 17) := by
    split_ifs with h
    · rw [h]
      rfl
    · exact (BitVec.ofNat_add (k + 16) 1).symm
  simp only [hlast, hT, wSet, hidx]

/-! ### The schedule of a block (R133, R136) -/

/-- Settles O44: a word below 16 is a word of the block, a later one is `scheduleWord`. -/
theorem scheduleRecurrence : Obligations.ScheduleRecurrence := by
  unfold Obligations.ScheduleRecurrence
  refine fun b => ⟨fun t ht => ?_, fun k hk => ?_⟩
  · have hidx : (BitVec.ofNat 6 t).toNat = t := toNat_ofNat_of_lt (by omega)
    have hword : ((BitVec.ofNat 6 t).extractLsb' 0 4).toNat = t := by simp; omega
    rw [← wAt_ofNat _ (by omega), wAt_schedule_of_lt b (by omega), blockWord, toNat_be32]
    simp only [hword]
  · rw [← wAt_ofNat _ (by omega), wAt_schedule_of_le b (by rw [toNat_ofNat_of_lt] <;> omega)]
    exact toNat_scheduleWord _ hk

/-- Settles O35: the states of the 64 steps are `State.scheduling`, and the last one holds the
schedule. -/
theorem loadAndSchedBuildSchedule : Obligations.LoadAndSchedBuildSchedule := by
  unfold Obligations.LoadAndSchedBuildSchedule
  intro s b hg ht hb hr
  rw [run_scheduling hg ht hb le_rfl hr, State.scheduling_all]

end Sys2Proof.Machine
end

section
/-! The compression engine: Ch and Maj bit by bit (R153, R154), INIT and ROUND one by one (R155, R156),
and `Compress` with its accumulation (R157, R158, R170). -/

namespace Sys2Proof.Machine

/-! ### Ch and Maj (R153, R154) -/

theorem getLsbD_ch (e f g : Word) {i : Nat} (hi : i < 32) :
    (ch e f g).getLsbD i = if e.getLsbD i then f.getLsbD i else g.getLsbD i := by
  simp only [ch, BitVec.getLsbD_xor, BitVec.getLsbD_and, BitVec.getLsbD_not, hi]
  cases e.getLsbD i <;> simp

theorem getLsbD_maj (a b c : Word) (i : Nat) :
    (maj a b c).getLsbD i = Bool.atLeastTwo (a.getLsbD i) (b.getLsbD i) (c.getLsbD i) := by
  simp only [maj, BitVec.getLsbD_xor, BitVec.getLsbD_and]
  generalize a.getLsbD i = x, b.getLsbD i = y, c.getLsbD i = z
  revert x y z
  decide

theorem atLeastTwo_iff (x y z : Bool) :
    Bool.atLeastTwo x y z = true ↔ 2 ≤ x.toNat + y.toNat + z.toNat := by
  revert x y z
  decide

/-- Settles O17: a choice bit for Ch, the majority of three bits for Maj. -/
theorem chooseAndMajority : Obligations.ChooseAndMajority := by
  unfold Obligations.ChooseAndMajority
  intro x y z i hi
  exact ⟨getLsbD_ch x y z hi, by rw [getLsbD_maj, atLeastTwo_iff]⟩

/-! ### INIT (R155) -/

/-- An INIT always goes on. -/
theorem execInit_eq (s : State) :
    execInit s = .next { s with R := s.H, STAGE := Stage.round, T := 0#6 } := rfl

/-- Settles O18: `R` becomes `H`. -/
theorem initCopiesState : Obligations.InitCopiesState := by
  unfold Obligations.InitCopiesState
  exact ⟨decode_encode (i := .init) rfl, fun s => ⟨_, execInit_eq s, fun _ => rfl, rfl⟩⟩

/-! ### One mixing round (R156, R157) -/

theorem kAt_ofNat {n : Nat} (hn : n < 64) : kAt (BitVec.ofNat 6 n) = config.K[n] := by
  simp only [kAt, toNat_ofNat_of_lt hn]

/-- The sum `temp1` in exact arithmetic, reduced once. -/
theorem toNat_temp1 (r : Vector Word 8) (k w : Word) :
    (temp1 r k w).toNat =
      (r[7].toNat + (bigSigma1 r[4]).toNat + (ch r[4] r[5] r[6]).toNat + k.toNat + w.toNat) %
        2 ^ 32 := by
  simp only [temp1, BitVec.toNat_add, Nat.mod_add_mod]

theorem toNat_temp2 (r : Vector Word 8) :
    (temp2 r).toNat = ((bigSigma0 r[0]).toNat + (maj r[0] r[1] r[2]).toNat) % 2 ^ 32 :=
  BitVec.toNat_add _ _

/-- The new `a`. -/
theorem toNat_roundRegs_zero (r : Vector Word 8) (k w : Word) :
    (roundRegs r k w)[0].toNat = ((temp1 r k w).toNat + (temp2 r).toNat) % 2 ^ 32 :=
  BitVec.toNat_add _ _

/-- The new `e`. -/
theorem toNat_roundRegs_four (r : Vector Word 8) (k w : Word) :
    (roundRegs r k w)[4].toNat = (r[3].toNat + (temp1 r k w).toNat) % 2 ^ 32 :=
  BitVec.toNat_add _ _

/-- ROUND with a numbered index: after 63 the index wraps to 0. -/
theorem execRound_ofNat (s : State) {k : Nat} (hk : k < 64) :
    execRound (BitVec.ofNat 6 k) s = .next
      { s with
        R := roundRegs s.R config.K[k] s.W[k]
        STAGE := if k = 63 then Stage.accum else Stage.round
        T := if k = 63 then 0#6 else BitVec.ofNat 6 (k + 1) } := by
  have hlast : BitVec.ofNat 6 k = 63#6 ↔ k = 63 := by
    rw [← BitVec.toNat_inj, toNat_ofNat_of_lt hk]
    rfl
  have hT : BitVec.ofNat 6 k + 1#6 = if k = 63 then 0#6 else BitVec.ofNat 6 (k + 1) := by
    split_ifs with h
    · rw [h]
      rfl
    · exact (BitVec.ofNat_add k 1).symm
  simp only [execRound_eq, kAt_ofNat hk, wAt_ofNat _ hk, hlast, hT]

/-- Settles O19: the new registers are `roundRegs`, six of them moved and two of them sums. -/
theorem roundMixes : Obligations.RoundMixes := by
  unfold Obligations.RoundMixes
  intro k hk s
  refine ⟨decode_encode (i := .round _) rfl, _, execRound_ofNat s hk, ?_, rfl⟩
  rw [← toNat_temp1, ← toNat_temp2]
  exact ⟨rfl, rfl, rfl, toNat_roundRegs_four .., rfl, rfl, rfl, toNat_roundRegs_zero ..⟩

/-! ### `Compress` (R157, R158, R170) -/

theorem compressUpTo_succ (h : Vector Word 8) (w : Vector Word 64) {i : Nat} (hi : i < 64) :
    compressUpTo h w (i + 1) = roundRegs (compressUpTo h w i) config.K[i] w[i] := by
  rw [compressUpTo, kAt_ofNat hi, wAt_ofNat w hi]

theorem getElem_accumulate (h r : Vector Word 8) (k : Fin 8) :
    (accumulate h r)[k] = h[k] + r[k] := by
  fin_cases k <;> rfl

/-- Settles O45: the octets are those of `compressUpTo`, from one to the next by one round. -/
theorem compressionRounds : Obligations.CompressionRounds := by
  unfold Obligations.CompressionRounds
  refine ⟨fun h w => ⟨compressUpTo h w, rfl, rfl, fun i hi => ?_⟩, fun h b k => ?_⟩
  · rw [compressUpTo_succ h w hi, ← toNat_temp1, ← toNat_temp2]
    exact ⟨toNat_roundRegs_zero .., rfl, rfl, rfl, toNat_roundRegs_four .., rfl, rfl, rfl⟩
  · rw [compressBlock, getElem_accumulate, BitVec.toNat_add]

/-- Settles O36: the states of the 65 steps are `State.compressing`, and the last one holds what
`Compress` leaves. -/
theorem roundsComputeCompress : Obligations.RoundsComputeCompress := by
  unfold Obligations.RoundsComputeCompress
  intro s hg ht hr
  rw [run_compressing hg ht le_rfl hr, State.compressing_all]

end Sys2Proof.Machine
end

section
/-! The state accumulator (44_state_accumulator.md): ACCUM (R170, R171), the three writers of `H`
(R174), the digest that stays on the port (R172, R223), and its hexadecimal form (R173). -/

namespace Sys2Proof.Machine

/-! ### ACCUM and the writers of `H` (R170, R171, R174) -/

/-- `Accumulate` word by word, in exact arithmetic reduced once (R170). -/
theorem toNat_getElem_accumulate (h r : Vector Word 8) (k : Fin 8) :
    (accumulate h r)[k].toNat = (h[k].toNat + r[k].toNat) % 2 ^ 32 := by
  rw [getElem_accumulate, BitVec.toNat_add]

/-- Settles O20: the sum is `accumulate`, and the rest of the next state is written out. -/
theorem accumAddsAndLeaves : Obligations.AccumAddsAndLeaves := by
  unfold Obligations.AccumAddsAndLeaves
  exact ⟨decode_encode (i := .accum) rfl,
    fun s => ⟨_, execAccum_eq s, toNat_getElem_accumulate s.H s.R, rfl⟩⟩

/-- What each kind of step does to `H`: all but three kinds leave it. -/
theorem StepTo.H_eq {s t : State} (h : StepTo s t) :
    t.H = if s.sample.rst = true then config.H0
      else if (s.STAGE = Stage.idle ∨ s.STAGE = Stage.final) ∧ s.sample.cmd = some newWord then
        config.H0
      else if s.STAGE = Stage.accum then accumulate s.H s.R
      else s.H := by
  cases h with
  | reset hr => rw [if_pos hr]; rfl
  | new hr hg ht hc => simp [hr, hg, hc]
  | feed b hr hg ht hc => simp [hr, hg, hc, feedWord_ne_newWord]
  | finalize hr hg ht hc => simp [hr, hg, hc, finalizeWord_ne_newWord]
  | stay r hr hrest hnew =>
    obtain ⟨hg | hg, -⟩ := s.atRest_iff.1 hrest <;> simp [hr, hg, hnew]
  | pad b hr hg => obtain ⟨hg, -⟩ | ⟨hg, -⟩ := hg <;> simp [hr, hg]
  | padlen hr hg | loadw v hr hg | sched hr hg | init hr hg | round hr hg | accum hr hg =>
    simp [hr, hg]

/-- Settles O31: the cases of the chain are those of `StepTo.H_eq`. -/
theorem onlyResetNewAccumWriteH : Obligations.OnlyResetNewAccumWriteH := by
  unfold Obligations.OnlyResetNewAccumWriteH
  intro s t hs
  have hH := (stepTo_of_step hs).H_eq
  rw [show newWord = 0x100 from rfl] at hH
  split_ifs at hH ⊢
  · exact hH
  · exact hH
  · rw [hH]
    exact toNat_getElem_accumulate s.H s.R
  · exact hH

/-! ### The digest stays on the port (R172, R223) -/

/-- In FINAL a step without reset or NEW waits or refuses its word, and touches no engine state. -/
theorem step_of_final {s : State} (hg : s.STAGE = Stage.final) (ht : s.T = 0#6)
    (hr : s.sample.rst = false) (hnew : s.sample.cmd ≠ some newWord) :
    ∃ r, step s = .next { s.tick with resp := r } := by
  have hrest : s.atRest = true := s.atRest_iff.2 ⟨.inr hg, ht⟩
  obtain ⟨hr', -⟩ | ⟨-, -, -, hs⟩ | ⟨w, i, -, -, hc, hd, hs⟩ | ⟨w, e, -, -, -, -, hs⟩ |
    ⟨i, -, hbusy, -⟩ | ⟨e, -, hbusy, -⟩ := step_cases s
  · simp [hr] at hr'
  · exact ⟨none, hs⟩
  · obtain ⟨-, rfl⟩ | ⟨b, rfl, -⟩ | ⟨rfl, -⟩ := word_of_decodeCommand hd
    · exact absurd hc hnew
    · exact ⟨some .usageError, hs.trans (execFeed_of_final (s := s.tick) b hg)⟩
    · exact ⟨some .usageError, hs.trans (execFinalize_of_final (s := s.tick) hg)⟩
  · exact ⟨some .illegalCommand, hs⟩
  · simp [hrest] at hbusy
  · simp [hrest] at hbusy

/-- What holds of the next `n + 1` samples, and of a host that drives nothing, holds of the sample
that this step uses and of the `n` that follow it. -/
theorem State.sample_and_tail_of_take {s : State} {n : Nat} {P : PortSample → Prop}
    (hquiet : P .quiet) (h : ∀ p ∈ s.inputs.take (n + 1), P p) :
    P s.sample ∧ ∀ p ∈ s.inputs.tail.take n, P p := by
  rw [State.sample]
  cases hin : s.inputs with
  | nil => exact ⟨hquiet, by simp⟩
  | cons p ps => simpa [hin] using h

/-- Settles O33: by induction over the steps, each of which keeps `H` and stays in FINAL. -/
theorem digestStaysUntilNewOrReset : Obligations.DigestStaysUntilNewOrReset := by
  unfold Obligations.DigestStaysUntilNewOrReset
  intro n
  induction n with
  | zero => exact fun s hg _ _ => ⟨s, rfl, beq_iff_eq.2 hg, rfl⟩
  | succ n ih =>
    intro s hg ht hin
    obtain ⟨⟨hr, hnew⟩, htail⟩ := State.sample_and_tail_of_take ⟨rfl, nofun⟩ hin
    obtain ⟨r, hs⟩ := step_of_final hg ht hr hnew
    exact (ih { s.tick with resp := r } hg ht htail).of_step hs

/-! ### The digest in hexadecimal (R173) -/

/-- The two digits of a byte, high nibble first. -/
def hexByte (b : Byte) : List Char := [hexDigit (b.extractLsb' 4 4), hexDigit (b.extractLsb' 0 4)]

theorem hexDigest_eq (bs : List Byte) : hexDigest bs = bs.flatMap hexByte := rfl

@[simp] theorem length_hexByte (b : Byte) : (hexByte b).length = 2 := rfl

theorem getElem?_hexByte (b : Byte) {j : Nat} (hj : j < 2) :
    (hexByte b)[j]? = some (hexDigit (b.extractLsb' (4 - 4 * j) 4)) := by
  interval_cases j <;> rfl

theorem length_hexDigest (bs : List Byte) : (hexDigest bs).length = 2 * bs.length := by
  simp [hexDigest_eq, List.length_flatMap, Nat.mul_comm]

/-- Digit `i` belongs to byte `i / 2`: its high nibble for an even `i`, else its low one. -/
theorem getElem?_hexDigest (bs : List Byte) (i : Nat) :
    (hexDigest bs)[i]? = bs[i / 2]?.map fun b => hexDigit (b.extractLsb' (4 - 4 * (i % 2)) 4) := by
  have hlt : i % 2 < 2 := Nat.mod_lt i (by decide)
  have hdigit := getElem?_flatMap_of_length length_hexByte bs (i / 2) hlt
  rw [Nat.div_add_mod] at hdigit
  simp only [hexDigest_eq, hdigit, getElem?_hexByte _ hlt, Option.map_eq_bind, Function.comp_def]

theorem getElem?_digits_eq_hexDigit (d : BitVec 4) :
    "0123456789abcdef".toList[d.toNat]? = some (hexDigit d) := by
  revert d
  decide

/-- A field that lies within a field. -/
theorem extractLsb'_extractLsb'_of_add_le {n off len start len' : Nat} {x : BitVec n}
    (h : off + len ≤ len') :
    (x.extractLsb' start len').extractLsb' off len = x.extractLsb' (start + off) len := by
  apply BitVec.eq_of_getLsbD_eq
  intro i hi
  simp [show off + i < len' by omega, Nat.add_assoc]

/-- Settles O50: a digit is that of a nibble of one byte of the digest, and the byte is a field of
the port. -/
theorem digestInHexadecimal : Obligations.DigestInHexadecimal := by
  unfold Obligations.DigestInHexadecimal
  refine ⟨fun s => ⟨by rw [length_hexDigest, length_digest], fun i hi => ?_⟩,
    getElem?_digits_eq_hexDigit⟩
  obtain ⟨-, hbytes⟩ := digestBytesOnPort s
  obtain ⟨-, hbyte⟩ := hbytes (i / 2) (by omega)
  have hstart : 248 - 8 * (i / 2) + (4 - 4 * (i % 2)) = 252 - 4 * i := by omega
  rw [getElem?_hexDigest, hbyte, Option.map_some, extractLsb'_extractLsb'_of_add_le (by omega),
    hstart]

end Sys2Proof.Machine
end

section
/-! Refused words (R185 to R195): which words are refused in which stage, the response to an accepted
word, and the state that a refusal leaves. -/

namespace Sys2Proof.Machine

/-! ### Illegal words (R189) -/

/-- The refused words by the rows of R71: neither NEW nor FEED nor FINALIZE. -/
theorem decodeCommand_eq_illegal_iff_and_mask {w : CmdWord} :
    decodeCommand w = .reject (.illegalCommand w) ↔
      w ≠ 0x100 ∧ w &&& 0xF00 ≠ 0x200 ∧ w ≠ 0x300 := by
  have hnew : decodeCommand w = .instr .new ↔ w = 0x100 :=
    decodeCommand_eq_new_iff.trans eq_comm
  have hfin : decodeCommand w = .instr .finalize ↔ w = 0x300 :=
    decodeCommand_eq_finalize_iff.trans eq_comm
  simp only [decodeCommand_eq_illegal_iff, ne_eq, hnew, hfin, decodeCommand_eq_feed_iff_and_mask,
    exists_and_left, exists_eq, and_true]

/-- A word that does not decode is refused at rest, in IDLE and in FINAL alike. -/
theorem step_of_illegal {s : State} {w : CmdWord} {e : DecodeError} (hr : s.sample.rst = false)
    (hrest : s.atRest = true) (hc : s.sample.cmd = some w) (hd : decodeCommand w = .reject e) :
    step s = .next (s.tick.raise .illegalCommand) := by
  simp [step, engineStep, hr, hrest, acceptPort, hc, hd]

/-! ### Legal words (R187, R188) -/

/-- In FINAL every legal command but NEW is refused. -/
theorem exec_command_of_final {s : State} (hg : s.STAGE = Stage.final) {w : CmdWord} {i : Instr}
    (hd : decodeCommand w = .instr i) (hnew : w ≠ newWord) :
    exec i s = .next (s.raise .usageError) := by
  obtain ⟨-, hw⟩ | ⟨b, rfl, -⟩ | ⟨rfl, -⟩ := word_of_decodeCommand hd
  · exact absurd hw hnew
  · exact execFeed_of_final b hg
  · exact execFinalize_of_final hg

/-- In IDLE a legal command that has a next state is answered OK. -/
theorem resp_of_exec_command_of_idle {s t : State} (hg : s.STAGE = Stage.idle) {w : CmdWord}
    {i : Instr} (hd : decodeCommand w = .instr i) (ht : exec i s = .next t) : t.resp = some .ok := by
  obtain ⟨rfl, -⟩ | ⟨b, rfl, -⟩ | ⟨rfl, -⟩ := word_of_decodeCommand hd
  · cases (execNew_of_rest (.inl hg)).symm.trans ht
    rfl
  · obtain hl | hl := Nat.lt_or_eq_of_le (Nat.le_of_lt_succ s.BUFLEN.isLt)
    · cases (execFeed_of_lt b hg hl).symm.trans ht
      rfl
    · cases (execFeed_of_full b hg hl).symm.trans ht
  · cases (execFinalize_of_idle hg).symm.trans ht
    rfl

/-- The response to a legal command at rest: the stage check of R187 and R188. -/
theorem resp_of_exec_command {s t : State} (hg : s.STAGE = Stage.idle ∨ s.STAGE = Stage.final)
    {w : CmdWord} {i : Instr} (hd : decodeCommand w = .instr i) (ht : exec i s = .next t) :
    t.resp = some (if s.STAGE = Stage.final ∧ w ≠ newWord then .usageError else .ok) := by
  obtain hg | hg := hg
  · rw [if_neg (by simp [hg])]
    exact resp_of_exec_command_of_idle hg hd ht
  · by_cases hw : w = newWord
    · subst hw
      cases hd
      cases (execNew_of_rest (.inr hg)).symm.trans ht
      simp [State.respond]
    · rw [if_pos ⟨hg, hw⟩]
      cases (exec_command_of_final hg hd hw).symm.trans ht
      rfl

/-! ### The obligations -/

/-- Settles O23: the word decodes or it does not, and only a command that decodes meets the stage
check. -/
theorem illegalBeforeUsageError : Obligations.IllegalBeforeUsageError := by
  unfold Obligations.IllegalBeforeUsageError
  refine ⟨fun s t w hp hT hg hs => ?_, fun s hr => ⟨_, step_of_reset hr, rfl⟩⟩
  have hrest : s.atRest = true := s.atRest_iff.2 ⟨hg, hT⟩
  have hill := decodeCommand_eq_illegal_iff_and_mask (w := w)
  rw [State.respOut]
  cases hd : decodeCommand w with
  | reject e =>
    cases (step_of_illegal (by rw [hp]) hrest (by rw [hp]) hd).symm.trans hs
    rw [if_pos (hill.1 (eq_illegal_of_decodeCommand hd ▸ hd))]
    rfl
  | instr i =>
    have hexec : exec i s.tick = .next t :=
      (step_of_command (by rw [hp]) hrest (by rw [hp]) hd).symm.trans hs
    rw [if_neg (hill.not.1 (by simp [hd])), resp_of_exec_command (s := s.tick) hg hd hexec,
      Option.map_some, apply_ite Response.code]
    rfl

/-- Settles O22: a refusal answers from the state with the sample used up. -/
theorem refusedWordsLeaveNoTrace : Obligations.RefusedWordsLeaveNoTrace := by
  unfold Obligations.RefusedWordsLeaveNoTrace
  intro s w hp hT
  constructor
  · intro hg hw
    have hrest : s.atRest = true := s.atRest_iff.2 ⟨.inr hg, hT⟩
    have hlegal : (∃ i, decodeCommand w = .instr i) ∧ w ≠ newWord := by
      obtain hfeed | rfl := hw
      · refine ⟨⟨_, decodeCommand_eq_feed_iff_and_mask.2 ⟨hfeed, rfl⟩⟩, ?_⟩
        rintro rfl
        exact absurd hfeed (by decide)
      · exact ⟨⟨_, decodeCommand_finalizeWord⟩, finalizeWord_ne_newWord⟩
    obtain ⟨⟨i, hd⟩, hnew⟩ := hlegal
    rw [step_of_command (by rw [hp]) hrest (by rw [hp]) hd]
    exact exec_command_of_final (s := s.tick) hg hd hnew
  · intro hg hnew hfeed hfin
    exact step_of_illegal (by rw [hp]) (s.atRest_iff.2 ⟨hg, hT⟩) (by rw [hp])
      (decodeCommand_eq_illegal_iff_and_mask.2 ⟨hnew, hfeed, hfin⟩)

end Sys2Proof.Machine
end

section
/-! Reset and hazards (70_reset_and_hazards.md): a reset in any stage (R210, R211), and the bound on
a busy period (R227), by counting the micro-operations that are left of it. -/

namespace Sys2Proof.Machine

/-! ### Reset (R210, R211) -/

/-- Settles O26: the next state is the state of reset, whatever the stage was. -/
theorem resetAbandonsEveryStage : Obligations.ResetAbandonsEveryStage := by
  unfold Obligations.ResetAbandonsEveryStage
  exact fun s hr => ⟨_, step_of_reset hr, rfl, rfl, rfl, rfl, rfl, rfl, rfl, rfl, rfl, rfl⟩

/-! ### The micro-operations left of a busy period -/

/-- The micro-operations that follow when the padder has `n` bytes in the buffer: zero bytes up to
the length field, PADLEN and the last block; or zero bytes up to the end of the block, that block,
and another block of 56 zero bytes and the length field (R110, R119). -/
def paddingLeft (n : Nat) : Nat :=
  if n ≤ 56 then 56 - n + (1 + 130) else 64 - n + (130 + (56 + (1 + 130)))

/-- The micro-operations that follow a block routine, by the flags with which ACCUM leaves it
(R171). -/
def leftAfterBlock (fin last : Bool) : Nat :=
  if last then 0 else if fin then paddingLeft 0 else 0

/-- The micro-operations left of a busy period, by stage and step index (R34, R119). -/
def State.busyLeft (s : State) : Nat :=
  if s.STAGE = Stage.padmark then 1 + paddingLeft (s.BUFLEN.val + 1)
  else if s.STAGE = Stage.padfill ∨ s.STAGE = Stage.padlen then paddingLeft s.BUFLEN.val
  else if s.STAGE = Stage.loadw ∨ s.STAGE = Stage.sched then
    130 - s.T.toNat + leftAfterBlock s.FIN s.LAST
  else if s.STAGE = Stage.init then 66 + leftAfterBlock s.FIN s.LAST
  else if s.STAGE = Stage.round then 65 - s.T.toNat + leftAfterBlock s.FIN s.LAST
  else if s.STAGE = Stage.accum then 1 + leftAfterBlock s.FIN s.LAST
  else 0

theorem paddingLeft_pos (n : Nat) : 0 < paddingLeft n := by
  unfold paddingLeft
  split <;> omega

theorem paddingLeft_le (n : Nat) : paddingLeft n ≤ 324 := by
  unfold paddingLeft
  split <;> omega

/-- One more zero byte, where the length field does not come next. -/
theorem paddingLeft_succ {n : Nat} (hn : n < 64) (h56 : n ≠ 56) :
    paddingLeft n = paddingLeft (n + 1) + 1 := by
  unfold paddingLeft
  split_ifs <;> omega

theorem leftAfterBlock_le (fin last : Bool) : leftAfterBlock fin last ≤ 187 := by
  cases fin <;> cases last <;> decide

section
variable {s : State}

theorem State.busyLeft_of_padmark (hg : s.STAGE = Stage.padmark) :
    s.busyLeft = 1 + paddingLeft (s.BUFLEN.val + 1) := by simp [busyLeft, hg]

theorem State.busyLeft_of_padfill_or_padlen
    (hg : s.STAGE = Stage.padfill ∨ s.STAGE = Stage.padlen) :
    s.busyLeft = paddingLeft s.BUFLEN.val := by
  obtain hg | hg := hg <;> simp [busyLeft, hg]

theorem State.busyLeft_of_loadw_or_sched (hg : s.STAGE = Stage.loadw ∨ s.STAGE = Stage.sched) :
    s.busyLeft = 130 - s.T.toNat + leftAfterBlock s.FIN s.LAST := by
  obtain hg | hg := hg <;> simp [busyLeft, hg]

theorem State.busyLeft_of_init (hg : s.STAGE = Stage.init) :
    s.busyLeft = 66 + leftAfterBlock s.FIN s.LAST := by simp [busyLeft, hg]

theorem State.busyLeft_of_round (hg : s.STAGE = Stage.round) :
    s.busyLeft = 65 - s.T.toNat + leftAfterBlock s.FIN s.LAST := by simp [busyLeft, hg]

theorem State.busyLeft_of_accum (hg : s.STAGE = Stage.accum) :
    s.busyLeft = 1 + leftAfterBlock s.FIN s.LAST := by simp [busyLeft, hg]

theorem State.busyLeft_of_not_busy (h : s.busy = false) : s.busyLeft = 0 := by
  obtain hg | hg := s.busy_eq_false_iff.1 h <;> simp [busyLeft, hg]

/-- Nothing takes longer than PADMARK at 56 bytes (R227). -/
theorem State.busyLeft_le (s : State) : s.busyLeft ≤ 325 := by
  have hmark := paddingLeft_le (s.BUFLEN.val + 1)
  have hfill := paddingLeft_le s.BUFLEN.val
  have hafter := leftAfterBlock_le s.FIN s.LAST
  unfold busyLeft
  split_ifs <;> omega

/-- Every legal value of `SEQ` other than the rest values has micro-operations left. -/
theorem State.busyLeft_pos (hseq : s.SeqLegal) (hb : s.busy = true) : 0 < s.busyLeft := by
  obtain ⟨hidle, hfinal⟩ := s.busy_iff.1 hb
  have hT := s.T.isLt
  obtain ⟨hg, -⟩ | ⟨hg, -⟩ | hg | ⟨-, hg | hg | hg | hg | hg | hg | hg⟩ := hseq
  · rw [busyLeft_of_loadw_or_sched (.inl hg)]
    omega
  · rw [busyLeft_of_loadw_or_sched (.inr hg)]
    omega
  · rw [busyLeft_of_round hg]
    omega
  · exact absurd hg hidle
  · rw [busyLeft_of_padmark hg]
    omega
  · rw [busyLeft_of_padfill_or_padlen (.inl hg)]
    exact paddingLeft_pos _
  · rw [busyLeft_of_padfill_or_padlen (.inr hg)]
    exact paddingLeft_pos _
  · rw [busyLeft_of_init hg]
    omega
  · rw [busyLeft_of_accum hg]
    omega
  · exact absurd hg hfinal

theorem State.busy_iff_busyLeft_pos (hseq : s.SeqLegal) : s.busy = true ↔ 0 < s.busyLeft := by
  refine ⟨s.busyLeft_pos hseq, fun h => ?_⟩
  by_contra hb
  simp [State.busyLeft_of_not_busy (by simpa using hb)] at h

/-! ### One step of a busy period -/

/-- Behind a padding byte the padder, or the block routine that it starts, has `paddingLeft` left:
a block that fills up before the length field is written is not the last one. -/
theorem State.busyLeft_of_padStage {n : Nat} (hg : s.STAGE = padStage n) (hn : s.BUFLEN.val = n)
    (ht : s.T = 0#6) (hfin : s.FIN = true) (hlast : s.LAST = false) :
    s.busyLeft = paddingLeft n := by
  unfold padStage at hg
  split_ifs at hg with h64 h56
  · rw [busyLeft_of_loadw_or_sched (.inl hg), ht, hfin, hlast, h64]
    rfl
  · rw [busyLeft_of_padfill_or_padlen (.inr hg), hn]
  · rw [busyLeft_of_padfill_or_padlen (.inl hg), hn]

/-- Counting the step index up counts the micro-operations down. -/
theorem sub_toNat_add_eq_succ {c : Nat} {t : BitVec 6} (h63 : t ≠ 63#6) (hc : 63 ≤ c) (n : Nat) :
    c - t.toNat + n = c - (t + 1#6).toNat + n + 1 := by
  have hlt : t.toNat < 63 := by
    have : t.toNat ≠ 63 := fun h => h63 (BitVec.eq_of_toNat_eq h)
    omega
  have hsucc : (t + 1#6).toNat = t.toNat + 1 := BitVec.toNat_add_of_lt (Nat.succ_lt_succ hlt)
  omega

/-- A busy step is one micro-operation less. -/
theorem StepTo.busyLeft_eq_succ {t : State} (h : StepTo s t) (hr : s.sample.rst = false)
    (hb : s.busy = true) (hi : s.Inv) : s.busyLeft = t.busyLeft + 1 := by
  obtain ⟨hidle, hfinal⟩ := s.busy_iff.1 hb
  obtain ⟨-, ⟨-, ffill, flen, -⟩, ⟨-, gpad, -⟩, -⟩ := hi
  cases h with
  | reset hr' => simp [hr] at hr'
  | new _ hg => exact absurd hg (not_or_intro hidle hfinal)
  | feed _ _ hg | finalize _ hg => exact absurd hg hidle
  | stay _ _ hrest => simp [State.atRest_of_busy hb] at hrest
  | pad b _ hg ht hl =>
    obtain ⟨hfin, hlast⟩ : s.FIN = true ∧ s.LAST = false :=
      gpad (hg.imp And.left fun h => .inl h.1)
    have hpad : s.busyLeft = paddingLeft (s.BUFLEN.val + 1) + 1 := by
      obtain ⟨hg, -⟩ | ⟨hg, -⟩ := hg
      · rw [State.busyLeft_of_padmark hg, Nat.add_comm]
      · rw [State.busyLeft_of_padfill_or_padlen (.inl hg), paddingLeft_succ hl (ffill hg).2]
    refine hpad.trans (congrArg (· + 1) (Eq.symm ?_))
    exact State.busyLeft_of_padStage rfl rfl rfl hfin hlast
  | padlen _ hg ht =>
    rw [State.busyLeft_of_padfill_or_padlen (.inr hg), flen hg,
      State.busyLeft_of_loadw_or_sched (.inl rfl)]
    rfl
  | loadw v _ hg ht =>
    have h63 : s.T ≠ 63#6 := fun h => by simp [h] at ht
    rw [State.busyLeft_of_loadw_or_sched (.inl hg), State.busyLeft_of_loadw_or_sched
      (ite_eq_or_eq (s.T = 15#6) Stage.sched Stage.loadw).symm]
    exact sub_toNat_add_eq_succ h63 (by decide) _
  | sched _ hg ht =>
    rw [State.busyLeft_of_loadw_or_sched (.inr hg)]
    by_cases h63 : s.T = 63#6
    · rw [State.busyLeft_of_init (if_pos h63), h63]
      exact Nat.add_right_comm 66 1 _
    · rw [State.busyLeft_of_loadw_or_sched (.inr (if_neg h63))]
      exact sub_toNat_add_eq_succ h63 (by decide) _
  | init _ hg =>
    rw [State.busyLeft_of_init hg, State.busyLeft_of_round rfl]
    exact Nat.add_right_comm 65 1 _
  | round _ hg =>
    rw [State.busyLeft_of_round hg]
    by_cases h63 : s.T = 63#6
    · rw [State.busyLeft_of_accum (if_pos h63), h63]
      exact Nat.add_right_comm 1 1 _
    · rw [State.busyLeft_of_round (if_neg h63)]
      exact sub_toNat_add_eq_succ h63 (by decide) _
  | accum _ hg =>
    rw [State.busyLeft_of_accum hg]
    cases hlast : s.LAST
    · cases hfin : s.FIN
      · rw [State.busyLeft_of_not_busy rfl]
        rfl
      · rw [State.busyLeft_of_padfill_or_padlen (.inl rfl)]
        rfl
    · rw [State.busyLeft_of_not_busy rfl]
      rfl

/-! ### The bound (R227) -/

/-- Without reset an engine is at rest when its micro-operations left have run. -/
theorem State.Inv.reaches_rest {n : Nat} (hi : s.Inv) (hn : s.busyLeft = n) (hr : s.NoReset n) :
    Reaches s n fun t => t.busy = false := by
  induction n generalizing s with
  | zero => exact ⟨s, rfl, by simpa [hn] using State.busy_iff_busyLeft_pos hi.1⟩
  | succ n ih =>
    have hb : s.busy = true := (State.busy_iff_busyLeft_pos hi.1).2 (by omega)
    have hrst : s.sample.rst = false := hr.rst_drop (k := 0) n.succ_pos
    obtain ⟨t, hs⟩ := invariantStatesNeverStop s hi
    have h := stepTo_of_step hs
    have hleft := h.busyLeft_eq_succ hrst hb hi
    obtain ⟨-, hin⟩ := h.resp_inputs_of_busy hrst hb
    have hr' : t.NoReset n :=
      State.NoReset.of_drop (m := 1) (by rwa [Nat.add_comm]) (hin.trans List.drop_one.symm)
    exact (ih (h.inv hi) (by omega) hr').of_step hs

end

/-- Settles O43: the number of micro-operations left is neither 0 nor more than 325. -/
theorem busyPeriodsAreBounded : Obligations.BusyPeriodsAreBounded := by
  unfold Obligations.BusyPeriodsAreBounded
  exact fun s hi hb hr => ⟨s.busyLeft, s.busyLeft_pos hi.1 hb, s.busyLeft_le,
    State.Inv.reaches_rest hi rfl (hr.mono s.busyLeft_le)⟩

end Sys2Proof.Machine
end
